-- ==== Sys2Proof/Word.lean ====
section
/-! DEFINITION. The word types of the block: bytes, 32-bit registers, 16-bit character codes, 2-bit symbols. -/

namespace Sys2Proof

/-- A byte of TEXT or BUF (R36, R63). -/
abbrev Byte := BitVec 8

/-- A 32-bit host register or bus data word (R26, R64). -/
abbrev Word := BitVec 32

/-- A 16-bit character code, or a ROM entry (R23, R38). -/
abbrev Code := BitVec 16

/-- A 2-bit Morse symbol, also called a group or a slot (R16, R20). -/
abbrev Sym := BitVec 2

end Sys2Proof
end

