-- ==== Sys2Proof/Syntax.lean ====
section
/-! DEFINITION. The instructions of the block: the four commands a CMD write can issue (R81).
A command word has no operand field (R82), so no constructor has an argument. -/

namespace Sys2Proof

/-- The rows of spec/opcode_table.json.  "Commands are this block's instructions" (R18). -/
inductive Instr where
  /-- ENCODE_ALIGNED, OP = 0 (R140). -/
  | encodeAligned
  /-- ENCODE_COMPACT, OP = 1 (R140). -/
  | encodeCompact
  /-- DISPATCH, OP = 2 (R190). -/
  | dispatch
  /-- DECODE, OP = 3 (R230). -/
  | decode
deriving DecidableEq, Repr

end Sys2Proof
end

