-- ==== Sys2Proof/Config.lean ====
section
/-! DEFINITION. What an implementation fixes (the parameters of R9) and the values the spec leaves free.
Every parameter of R9 is a field, so a statement over all states covers every configuration. -/

namespace Sys2Proof

/-- Which two bits of a character code the Compact separator test reads (R9, R152 (b)). -/
inductive SepTest where
  | low
  | high
deriving DecidableEq, Repr

/-- The parameters of R9, one field each.  `Config.wellFormed` (WellFormed.lean) says which values are legal. -/
structure Config where
  /-- ADDR_W: width of TEXT_LEN, CAPACITY and LENGTH. -/
  addrW : Nat
  /-- TEXT_SIZE: bytes of TEXT. -/
  textSize : Nat
  /-- BUF_SIZE: bytes of BUF. -/
  bufSize : Nat
  /-- LETTER_ROM: 26 entries, indexed by letter - 'A'. -/
  letterRom : List Code
  /-- DIGIT_ROM: 10 entries, indexed by digit - '0'. -/
  digitRom : List Code
  /-- END_WORD_CODE: the character code of a space. -/
  endWordCode : Code
  /-- COMPACT_SEP_TEST. -/
  compactSepTest : SepTest
  /-- SPACE_CODE of class NONE. -/
  spaceNone : BitVec 4
  /-- SPACE_CODE of class INTRA. -/
  spaceIntra : BitVec 4
  /-- SPACE_CODE of class CHAR. -/
  spaceChar : BitVec 4
  /-- SPACE_CODE of class WORD. -/
  spaceWord : BitVec 4
  /-- SPACE_CODE of class STOP. -/
  spaceStop : BitVec 4
  /-- E_CAPACITY. -/
  eCapacity : Word
  /-- E_RANGE. -/
  eRange : Word
  /-- E_ILLEGAL. -/
  eIllegal : Word
  /-- E_OVERRUN. -/
  eOverrun : Word
deriving DecidableEq, Repr

/-- Free value: what a host window read of a byte nothing has written returns (R37, S3: "returns an unspecified
byte, and a model admits every 8-bit value for it").  DESIGN CHOICE of form, log entry 4. -/
opaque Config.freeByte : Nat → Byte

/-- Free value: EV_KIND once an event has been accepted and no other is presented (R43 gives EV_KIND only at reset
and while EV_VALID = 1).  DESIGN CHOICE of form, log entry 5. -/
opaque Config.freeEvKind : Nat → BitVec 2

/-- Free value: EV_FLAGS once an event has been accepted and no other is presented (as `freeEvKind`). -/
opaque Config.freeEvFlags : Nat → Byte

end Sys2Proof
end

