-- ==== Sys2Proof/Machine/Symbols.lean ====
section
/-! DEFINITION. The symbol alphabet, the packing of symbols in bytes and codes, and the group count (R16, R20 to R24). -/

namespace Sys2Proof.Machine

/-- NUL = 0b00 (R21). -/
def symNul : Sym := 0b00#2

/-- DIT = 0b01 (R21). -/
def symDit : Sym := 0b01#2

/-- DAH = 0b10 (R21). -/
def symDah : Sym := 0b10#2

/-- END_CHAR = 0b11 (R21). -/
def symEndChar : Sym := 0b11#2

/-- Slot `j` of a byte: `b[2j+1:2j]` (R22, R193). -/
def slotOf (b : Byte) (j : Nat) : Sym := b.extractLsb' (2 * j) 2

/-- Group `g` of a character code: `cc[2g+1:2g]` (R16). -/
def groupOf (cc : Code) (g : Nat) : Sym := cc.extractLsb' (2 * g) 2

/-- A group shifted to slot `j` of an otherwise zero byte: `g << 2*j` (R67). -/
def placeGroup (g : Sym) (j : Nat) : Byte := (g.setWidth 8) <<< (2 * j)

/-- The number of base-4 digits of `v`, counting at most `fuel` of them. -/
def countGroups : Nat → Nat → Nat
  | 0, _ => 0
  | fuel + 1, v => if v = 0 then 0 else 1 + countGroups fuel (v / 4)

/-- `ngroups(cc)`: the least `n` with `cc >> 2n = 0` (R16).  A code has 8 groups, so 8 is fuel enough. -/
def ngroups (cc : Code) : Nat := countGroups 8 cc.toNat

/-- END_STOP: eight END_CHAR symbols, 0xFFFF (R10, R24). -/
def endStop : Code := 0xFFFF#16

/-- THRESHOLD: the margin reserved for the final terminator, in bytes (R8). -/
def threshold : Nat := 2

end Sys2Proof.Machine
end

