-- ==== Sys2Proof/Machine/Rom.lean ====
section
/-! DEFINITION. The construction of a ROM entry (R102) and the default contents of the two ROM tables (R104, R105). -/

namespace Sys2Proof.Machine

/-- One element of a Morse pattern: `false` a dot, `true` a dash (R102). -/
abbrev Mark := Bool

/-- The symbol of a pattern element (R102). -/
def markSym (m : Mark) : Sym := if m then symDah else symDit

/-- The groups of an entry from index `n` on, as a code: the marks in order, then END_CHAR (R102). -/
def romEntryFrom : Nat → List Mark → Code
  | n, [] => (symEndChar.setWidth 16) <<< (2 * n)
  | n, m :: ms => ((markSym m).setWidth 16) <<< (2 * n) ||| romEntryFrom (n + 1) ms

/-- The entry R102 builds from a pattern. -/
def romEntry (pattern : List Mark) : Code := romEntryFrom 0 pattern

/-- The shape every ROM entry must have (R102): 1 to 7 DIT or DAH groups, then END_CHAR, then zeros. -/
def romEntryShape (cc : Code) : Bool :=
  let n := ngroups cc
  decide (2 ≤ n) && decide (n ≤ 8) && (groupOf cc (n - 1) == symEndChar) &&
    (List.range (n - 1)).all fun g => groupOf cc g == symDit || groupOf cc g == symDah

/-- LETTER_ROM[0..12], letters A to M (R104). -/
def letterRomAtoM : List Code :=
  [0x0039#16, 0x0356#16, 0x0366#16, 0x00D6#16, 0x000D#16, 0x0365#16, 0x00DA#16, 0x0355#16, 0x0035#16, 0x03A9#16,
   0x00E6#16, 0x0359#16, 0x003A#16]

/-- LETTER_ROM[13..25], letters N to Z (R104). -/
def letterRomNtoZ : List Code :=
  [0x0036#16, 0x00EA#16, 0x0369#16, 0x039A#16, 0x00D9#16, 0x00D5#16, 0x000E#16, 0x00E5#16, 0x0395#16, 0x00E9#16,
   0x0396#16, 0x03A6#16, 0x035A#16]

/-- The default LETTER_ROM, indexed by letter - 'A' (R104). -/
def defaultLetterRom : List Code := letterRomAtoM ++ letterRomNtoZ

/-- The default DIGIT_ROM, indexed by digit - '0' (R105). -/
def defaultDigitRom : List Code :=
  [0x0EAA#16, 0x0EA9#16, 0x0EA5#16, 0x0E95#16, 0x0E55#16, 0x0D55#16, 0x0D56#16, 0x0D5A#16, 0x0D6A#16, 0x0DAA#16]

end Sys2Proof.Machine
end

