-- ==== Sys2Proof/WellFormed.lean ====
section
/-! DEFINITION. Well-formed instructions and legal configurations.
A command has no operand (R82), so every instruction is well-formed; the checks that can refuse something are those on
the parameters of R9, one Bool each. -/

namespace Sys2Proof

/-- Every command is well-formed: the word has no operand field (R80, R82). -/
def Instr.wellFormed : Instr → Bool
  | .encodeAligned => true
  | .encodeCompact => true
  | .dispatch => true
  | .decode => true

/-- ADDR_W is 8..16, TEXT_SIZE 1..2^ADDR_W, BUF_SIZE 2..2^ADDR_W (R9). -/
def Config.sizesOk (c : Config) : Bool :=
  decide (8 ≤ c.addrW) && decide (c.addrW ≤ 16) &&
  decide (1 ≤ c.textSize) && decide (c.textSize ≤ 2 ^ c.addrW) &&
  decide (2 ≤ c.bufSize) && decide (c.bufSize ≤ 2 ^ c.addrW)

/-- The two ROMs have 26 and 10 entries, each of the shape of R102.  A ROM that fails is BAD_ROM (R250, S8). -/
def Config.romOk (c : Config) : Bool :=
  decide (c.letterRom.length = 26) && decide (c.digitRom.length = 10) &&
  c.letterRom.all Machine.romEntryShape && c.digitRom.all Machine.romEntryShape

/-- END_WORD_CODE is `2^(2n) - 1` for some n in 1..8 (R9). -/
def Config.endWordOk (c : Config) : Bool :=
  (List.range 8).any fun m => c.endWordCode.toNat == 4 ^ (m + 1) - 1

/-- NONE = 0, the others non-zero and strictly increasing (R9). -/
def Config.spaceOk (c : Config) : Bool :=
  (c.spaceNone == 0#4) && decide (0#4 < c.spaceIntra) && decide (c.spaceIntra < c.spaceChar) &&
  decide (c.spaceChar < c.spaceWord) && decide (c.spaceWord < c.spaceStop)

/-- The error codes are distinct negative 32-bit values (R9). -/
def Config.errorsOk (c : Config) : Bool :=
  c.eCapacity.msb && c.eRange.msb && c.eIllegal.msb && c.eOverrun.msb &&
  decide ([c.eCapacity, c.eRange, c.eIllegal, c.eOverrun].Nodup)

/-- Every parameter has a legal value (R9). -/
def Config.wellFormed (c : Config) : Bool :=
  c.sizesOk && c.romOk && c.endWordOk && c.spaceOk && c.errorsOk

end Sys2Proof
end

