-- ==== Sys2Proof/Decode.lean ====
section
/-! DEFINITION. The decoder of a command word and the encoder, both written from R80 and R81. -/

namespace Sys2Proof

/-- Why a word is no command. -/
inductive DecodeError where
  /-- RSVD, bits 31:2, is not zero (R84). -/
  | reservedBits
deriving DecidableEq, Repr

/-- Field OP, bits 1:0 (R80). -/
def opField (w : Word) : BitVec 2 := w.extractLsb' 0 2

/-- Field RSVD, bits 31:2 (R80). -/
def rsvdField (w : Word) : BitVec 30 := w.extractLsb' 2 30

/-- The command an OP value selects (R81); all four values are defined (R84). -/
def instrOfOp (op : BitVec 2) : Instr :=
  match op.toNat with
  | 0 => .encodeAligned
  | 1 => .encodeCompact
  | 2 => .dispatch
  | _ => .decode

/-- The decoder: RSVD is checked before OP is looked at (R84, R230 "rejected before any OP is decoded"). -/
def decodeCmd (w : Word) : Except DecodeError Instr :=
  if rsvdField w = 0#30 then .ok (instrOfOp (opField w)) else .error .reservedBits

/-- OP of a command (R81). -/
def Instr.op : Instr → BitVec 2
  | .encodeAligned => 0#2
  | .encodeCompact => 1#2
  | .dispatch => 2#2
  | .decode => 3#2

/-- The word of a command: RSVD zero, then OP (R80, R81). -/
def encode (i : Instr) : Word := 0#30 ++ i.op

/-- The instruction the decoder reads from a table row's bits.  A command is one 32-bit bus word, so the bits are the
word itself; a row wider than 32 bits would be no command. -/
def decodeTableWord (nbits w : Nat) : Option Instr :=
  if w % 2 ^ nbits < 2 ^ 32 then
    match decodeCmd (BitVec.ofNat 32 (w % 2 ^ nbits)) with
    | .ok i => some i
    | .error _ => none
  else none

end Sys2Proof
end

