-- ==== Sys2Proof/Machine/Defaults.lean ====
section
/-! DEFINITION. The default value of every parameter (R9, column "default"): the uMorse CORE of the spec. -/

namespace Sys2Proof.Machine

/-- "A model that fixes the defaults models the uMorse CORE of this spec" (R9). -/
def defaultConfig : Config where
  addrW := 16
  textSize := 4096
  bufSize := 4096
  letterRom := defaultLetterRom
  digitRom := defaultDigitRom
  endWordCode := 0x00FF#16
  compactSepTest := .low
  spaceNone := 0x0#4
  spaceIntra := 0x1#4
  spaceChar := 0x2#4
  spaceWord := 0x4#4
  spaceStop := 0x8#4
  eCapacity := 0xFFFFFFFF#32
  eRange := 0xFFFFFFFE#32
  eIllegal := 0xFFFFFFFD#32
  eOverrun := 0xFFFFFFFC#32

end Sys2Proof.Machine
end

