-- ==== Sys2Proof/Machine/State.lean ====
section
/-! DEFINITION. The state of one uMorse CORE instance as plain data, the reasons a step stops, and the state after
power-on reset (R26 to R46, R60, R270, R271). -/

namespace Sys2Proof.Machine

/-- Engine states `s.eng` (R40, R161, R209, R232). -/
inductive Eng where
  | idle
  | eClear
  | eScan
  | eTerm
  | eFin
  | dWalk
  | dEmit
  | dFin
  | xDecode
deriving DecidableEq, Repr

/-- The layout `s.mode` (R41). -/
inductive Mode where
  | aligned
  | compact
deriving DecidableEq, Repr

/-- The three kinds of event (R43, R92). -/
inductive EventKind where
  | dit
  | dah
  | silence
deriving DecidableEq, Repr

/-- An event: its kind and its flags byte (R92). -/
structure Event where
  kind : EventKind
  flags : Byte
deriving DecidableEq, Repr

/-- The spacing classes (R198). -/
inductive SpaceClass where
  | none
  | intra
  | char
  | word
  | stop
deriving DecidableEq, Repr

/-- The classes of an input byte, with the normalized character where R127 returns one (R120, R127). -/
inductive CharClass where
  | letter (c : Byte)
  | number (c : Byte)
  | space
  | stop
  | ignored
deriving DecidableEq, Repr

/-- The host registers of R26. -/
inductive HostReg where
  | cmd
  | status
  | ctrl
  | textLen
  | capacity
  | length
  | flags
  | result
deriving DecidableEq, Repr

/-- One host bus transaction: direction, 18-bit address, width in bits, data (R60, R93).  An 8-bit write uses the low
byte of `data`. -/
inductive BusOp where
  | read (addr : BitVec 18) (width : Nat)
  | write (addr : BitVec 18) (width : Nat) (data : Word)
deriving DecidableEq, Repr

/-- One atomic step of one of the four agents (R19). -/
inductive Action where
  /-- The host makes one bus transaction. -/
  | host (op : BusOp)
  /-- The core takes its next engine step. -/
  | core
  /-- The collaborator asserts EV_READY (R212). -/
  | accept
  /-- The reset input is asserted (R270). -/
  | reset
deriving DecidableEq, Repr

/-- A byte store: the written bytes, addresses strictly rising.  An unlisted byte is unwritten (R37). -/
abbrev Memory := List Host.Cell

/-- The state of the block.  The first group is the configuration, which no step changes; the last group is the
model's own (inputs to come, what the outside has seen, and the free-value counter). -/
structure State where
  /-- The parameters of R9, the ROM among them (R38): constant. -/
  cfg : Config
  /-- STATUS.DONE (R28). -/
  done : Bool
  /-- STATUS.ERR (R28). -/
  err : Bool
  /-- STATUS.TRUNC (R28). -/
  trunc : Bool
  /-- CTRL.IRQ_EN (R29). -/
  irqEn : Bool
  /-- TEXT_LEN[ADDR_W-1:0] (R30). -/
  textLen : BitVec 16
  /-- CAPACITY[ADDR_W-1:0] (R31). -/
  capacity : BitVec 16
  /-- LENGTH[ADDR_W-1:0] (R32). -/
  length : BitVec 16
  /-- FLAGS[7:0] (R33). -/
  flags : Byte
  /-- RESULT (R34). -/
  result : Word
  /-- TEXT (R36). -/
  text : Memory
  /-- BUF (R36). -/
  buf : Memory
  /-- `s.eng` (R40); STATUS.BUSY is `eng ≠ idle`. -/
  eng : Eng
  /-- `s.op` (R39). -/
  op : BitVec 2
  /-- `s.tlen` (R39). -/
  tlen : BitVec 16
  /-- `s.cap` (R39). -/
  cap : BitVec 16
  /-- `s.dlen` (R39). -/
  dlen : BitVec 16
  /-- `s.base` (R39). -/
  base : Byte
  /-- `s.mode` (R41). -/
  mode : Mode
  /-- `s.i` (R41). -/
  i : Nat
  /-- `s.p` (R41). -/
  p : Nat
  /-- `s.k` (R41). -/
  k : Nat
  /-- `s.halted` (R41). -/
  halted : Bool
  /-- `s.cc` (R41). -/
  cc : Code
  /-- The index `j` of E_CLEAR's next byte (R161 implies it). -/
  j : Nat
  /-- `s.bi` (R42). -/
  bi : Nat
  /-- `s.slot` (R42). -/
  slot : Fin 4
  /-- `s.cnt` (R42). -/
  cnt : BitVec 4
  /-- The byte `b` the walk is in (R190 implies it: each byte is read once, R192). -/
  b : Byte
  /-- `s.q`, oldest event first (R42). -/
  q : List Event
  /-- EV_VALID (R43). -/
  evValid : Bool
  /-- EV_KIND (R43). -/
  evKind : BitVec 2
  /-- EV_FLAGS (R43). -/
  evFlags : Byte
  /-- MODEL'S OWN: the agents' steps still to come, next first; any list, so any interleaving (log entry 1). -/
  schedule : List Action
  /-- MODEL'S OWN: the events the collaborator has accepted, oldest first (log entry 2). -/
  delivered : List Event
  /-- MODEL'S OWN: the data the host's reads have returned, oldest first, a byte zero-extended (log entry 2). -/
  reads : List Word
  /-- MODEL'S OWN: the number of free values drawn so far (log entry 3). -/
  freeIdx : Nat
deriving DecidableEq, Repr

/-- STATUS.BUSY: "BUSY = 1 exactly when s.eng != IDLE" (R40). -/
def State.busy (s : State) : Bool := s.eng != .idle

/-- `fault Protocol(reason)` (R250): the run stops, and no later step clears it. -/
inductive Fault where
  /-- BAD_ACCESS: a host access of the wrong width or alignment (R64).  Raised by `hostAccess`.  Safe. -/
  | badAccess
  /-- WINDOW_WHILE_BUSY: a host access to a window while BUSY = 1 (R73).  Raised by `hostAccess`.  Safe. -/
  | windowWhileBusy
  /-- UNWRITTEN_READ: a core read of a byte nothing has written (R37).  Raised by `scanStep`, `orGroup` and
  `walkStep`.  Safe. -/
  | unwrittenRead
  /-- ROM_INDEX: a LOOKUP index out of range (R106), unreachable.  Raised by `resolve`.  Safe. -/
  | romIndex
deriving DecidableEq, Repr

/-- Why the model gives no meaning. -/
inductive Refusal where
  /-- An instruction with no meaning yet (none is left).  Safe. -/
  | notModelled (mnemonic : String)
  /-- BAD_ROM: the ROM parameter violates R102, refused when the model is configured (R102, R250).  Raised by
  `agentStep`.  Safe. -/
  | badRom
  /-- Another parameter is outside R9's legal values.  Raised by `agentStep`.  Safe. -/
  | badConfig
deriving DecidableEq, Repr

/-- A micro-operation of a command: it goes on with a value, ends the command (`finish` inside a bounded write, R156),
or is a protocol fault. -/
inductive Micro (α : Type) where
  | ok (a : α)
  | ended (s : State)
  | fault (f : Fault)
deriving Repr

/-- Power-on with configuration `c`: R46's value for every item, TEXT and BUF all unwritten (R271). -/
def State.powerOn (c : Config) : State where
  cfg := c
  done := false
  err := false
  trunc := false
  irqEn := false
  textLen := 0
  capacity := 0
  length := 0
  flags := 0
  result := 0
  text := []
  buf := []
  eng := .idle
  op := 0
  tlen := 0
  cap := 0
  dlen := 0
  base := 0
  mode := .aligned
  i := 0
  p := 0
  k := 0
  halted := false
  cc := 0
  j := 0
  bi := 0
  slot := 0
  cnt := 0
  b := 0
  q := []
  evValid := false
  evKind := 0
  evFlags := 0
  schedule := []
  delivered := []
  reads := []
  freeIdx := 0

/-- The uMorse CORE (default parameters) after power-on reset. -/
def State.reset : State := State.powerOn defaultConfig

end Sys2Proof.Machine
end

