-- ==== Sys2Proof/Machine/Memory.lean ====
section
/-! DEFINITION. The byte stores TEXT and BUF: one canonical list form, read, write and forget (R36, R37, R63, R66). -/

namespace Sys2Proof.Machine

/-- The value of a byte, `none` when nothing has written it (R37). -/
def Memory.read : Memory → Nat → Option Byte
  | [], _ => none
  | c :: m, a => if c.1 = a then some c.2 else Memory.read m a

/-- One byte written, the list kept in rising order (R63, R66). -/
def Memory.write : Memory → Nat → Byte → Memory
  | [], a, v => [(a, v)]
  | c :: m, a, v =>
    if a < c.1 then (a, v) :: c :: m
    else if a = c.1 then (a, v) :: m
    else c :: Memory.write m a v

/-- Every byte below `n` made unwritten (R37, R270 point 5). -/
def Memory.forget (m : Memory) (n : Nat) : Memory := m.filter fun c => decide (n ≤ c.1)

/-- Every address of the list is above `lo`, and they rise strictly. -/
def Memory.risesFrom : Nat → Memory → Bool
  | _, [] => true
  | lo, c :: m => decide (lo ≤ c.1) && Memory.risesFrom (c.1 + 1) m

/-- The canonical form: addresses strictly rising (an unlisted byte is unwritten, so no entry can equal it). -/
def Memory.wf (m : Memory) : Bool := Memory.risesFrom 0 m

end Sys2Proof.Machine
end

