-- ==== Sys2Proof/Machine/Flags.lean ====
section
/-! DEFINITION. Every flag computation: the STATUS word, IRQ, the spacing class and the event flags byte
(R28, R44, R45, R83, R92, R195, R198, R203). -/

namespace Sys2Proof.Machine

/-- STATUS as the host reads it: TRUNC, ERR, DONE, BUSY in bits 3..0 (R28). -/
def statusWord (s : State) : Word :=
  (BitVec.ofBool s.trunc ++ BitVec.ofBool s.err ++ BitVec.ofBool s.done ++ BitVec.ofBool s.busy).setWidth 32

/-- `IRQ = STATUS.DONE & CTRL.IRQ_EN` (R44, R247). -/
def State.irq (s : State) : Bool := s.done && s.irqEn

/-- EV_KIND of a kind of event (R43, R92). -/
def EventKind.code : EventKind → BitVec 2
  | .dit => 0b01#2
  | .dah => 0b10#2
  | .silence => 0b11#2

/-- `CLASS(n)` of a silence count (R198). -/
def spaceClass (n : Nat) : SpaceClass :=
  if n = 0 then .none
  else if n = 1 then .intra
  else if n ≤ 3 then .char
  else if n ≤ 7 then .word
  else .stop

/-- `SPACE_CODE(class)` (R9, R198). -/
def spaceCode (c : Config) : SpaceClass → BitVec 4
  | .none => c.spaceNone
  | .intra => c.spaceIntra
  | .char => c.spaceChar
  | .word => c.spaceWord
  | .stop => c.spaceStop

/-- The base every event's flags start from: `FLAGS & 0xF0` (R39, R83). -/
def flagsBase (f : Byte) : Byte := f &&& 0xF0#8

/-- `EV_FLAGS = s.base | code` (R203). -/
def eventFlags (base : Byte) (code : BitVec 4) : Byte := base ||| code.setWidth 8

/-- A Dit or Dah event: code 0 (R203). -/
def soundEvent (base : Byte) (sym : Sym) : Event :=
  { kind := if sym = 0b01#2 then .dit else .dah, flags := eventFlags base 0#4 }

/-- A Silence event of a class (R199, R201, R203). -/
def silenceEvent (c : Config) (base : Byte) (cls : SpaceClass) : Event :=
  { kind := .silence, flags := eventFlags base (spaceCode c cls) }

/-- `s.cnt <- min(s.cnt + 1, 15)` (R195). -/
def countEndChar (cnt : BitVec 4) : BitVec 4 := if cnt = 15#4 then 15#4 else cnt + 1#4

end Sys2Proof.Machine
end

