-- ==== Sys2Proof/Machine/Operands.lean ====
section
/-! DEFINITION. Operand forms: the host address map and register fields (R26 to R34, R60), and the latching of a
command's operands (R39, R82). -/

namespace Sys2Proof.Machine

/-- What an 18-bit host address names (R60). -/
inductive Region where
  | register (offset : Nat)
  | text (index : Nat)
  | buf (index : Nat)
  | reserved
deriving DecidableEq, Repr

/-- The regions of the host address space (R60 (a)). -/
def region (addr : BitVec 18) : Region :=
  let a := addr.toNat
  if a < 0x100 then .register a
  else if a < 0x10000 then .reserved
  else if a < 0x20000 then .text (a - 0x10000)
  else if a < 0x30000 then .buf (a - 0x20000)
  else .reserved

/-- The register at an offset of the register window; `none` is reserved (R26). -/
def hostReg (offset : Nat) : Option HostReg :=
  match offset with
  | 0x000 => some .cmd
  | 0x004 => some .status
  | 0x008 => some .ctrl
  | 0x00C => some .textLen
  | 0x010 => some .capacity
  | 0x014 => some .length
  | 0x018 => some .flags
  | 0x01C => some .result
  | _ => none

/-- The offset of a register (R26). -/
def HostReg.offset : HostReg → BitVec 18
  | .cmd => 0x000#18
  | .status => 0x004#18
  | .ctrl => 0x008#18
  | .textLen => 0x00C#18
  | .capacity => 0x010#18
  | .length => 0x014#18
  | .flags => 0x018#18
  | .result => 0x01C#18

/-- The low ADDR_W bits of a written word, the rest ignored (R30, R31, R32). -/
def addrField (c : Config) (d : Word) : BitVec 16 := BitVec.ofNat 16 (d.toNat % 2 ^ c.addrW)

/-- What the host reads from a register: reserved bits and CMD read 0 (R27 to R34). -/
def readReg (s : State) : HostReg → Word
  | .cmd => 0#32
  | .status => statusWord s
  | .ctrl => (BitVec.ofBool s.irqEn).setWidth 32
  | .textLen => s.textLen.setWidth 32
  | .capacity => s.capacity.setWidth 32
  | .length => s.length.setWidth 32
  | .flags => s.flags.setWidth 32
  | .result => s.result

/-- A host write to a register other than CMD (R28 to R34); a CMD write is a command issue (Machine/Bus.lean). -/
def writeReg (d : Word) (s : State) : HostReg → State
  | .cmd => s
  | .status => { s with done := s.done && !d.getLsbD 1 }
  | .ctrl => { s with irqEn := d.getLsbD 0 }
  | .textLen => { s with textLen := addrField s.cfg d }
  | .capacity => { s with capacity := addrField s.cfg d }
  | .length => { s with length := addrField s.cfg d }
  | .flags => { s with flags := d.setWidth 8 }
  | .result => s

/-- The operands of a command, copied from the registers as they are (R39, R82, R241). -/
def latch (op : BitVec 2) (s : State) : State :=
  { s with op := op, tlen := s.textLen, cap := s.capacity, dlen := s.length, base := flagsBase s.flags }

end Sys2Proof.Machine
end

