-- ==== Sys2Proof/Machine/Ops.lean ====
section
/-! DEFINITION. The shared operations: ending a command (`finish`, the block's only "exception" mechanism, R240, R245),
issuing one, the core's byte accesses and bounded writes (R66, R67, R156), and the event port (R43, R212). -/

namespace Sys2Proof.Machine

/-- Go on with the value of a micro-operation; an ended command or a fault stays as it is. -/
def Micro.bind {α β : Type} (m : Micro α) (f : α → Micro β) : Micro β :=
  match m with
  | .ok a => f a
  | .ended s => .ended s
  | .fault e => .fault e

/-- The step's answer for a micro-operation whose value is the next state. -/
def Micro.toOutcome : Micro State → Host.Outcome State Fault Refusal
  | .ok s => .next s
  | .ended s => .next s
  | .fault e => .fault e

/-- `finish(v)` (R245).  `raise CmdError(code)` is `finish(code)` (R14). -/
def finish (v : Word) (s : State) : State :=
  { s with result := v, err := v.msb, done := true, eng := .idle }

/-- The first line of ISSUE (R241): DONE, ERR and TRUNC cleared. -/
def clearStatus (s : State) : State := { s with done := false, err := false, trunc := false }

/-- ISSUE after its RSVD check (R241): the status cleared and the operands latched, then `start`.  While BUSY = 1 the
write is ignored entirely (R242). -/
def issue (op : BitVec 2) (start : State → State) (s : State) : Host.Outcome State Fault Refusal :=
  if s.busy then .next s else .next (start (latch op (clearStatus s)))

/-- `MemRead(BUF, i, 1)`, a core read (R13, R37). -/
def readBuf (a : Nat) (s : State) : Micro Byte :=
  match s.buf.read a with
  | some v => .ok v
  | none => .fault .unwrittenRead

/-- `MemRead(TEXT, i, 1)`, a core read (R13, R37). -/
def readText (a : Nat) (s : State) : Micro Byte :=
  match s.text.read a with
  | some v => .ok v
  | none => .fault .unwrittenRead

/-- `MemWrite(BUF, i, 1, v)` (R66). -/
def writeBuf (a : Nat) (v : Byte) (s : State) : State := { s with buf := s.buf.write a v }

/-- `BW(i, v)`: the bounded write, or the command ended with E_OVERRUN (R156). -/
def boundedWrite (a : Nat) (v : Byte) (s : State) : Micro State :=
  if a < s.cap.toNat then .ok (writeBuf a v s) else .ended (finish s.cfg.eOverrun s)

/-- `OrGroup(k, g)`: a read-modify-write of one BUF byte (R67). -/
def orGroup (k : Nat) (g : Sym) (s : State) : Micro State :=
  (readBuf (k / 4) s).bind fun v => .ok (writeBuf (k / 4) (v ||| placeGroup g (k % 4)) s)

/-- `BG(k, g)`: the bounded group deposit, or the command ended with E_OVERRUN (R153, R156). -/
def boundedGroup (k : Nat) (g : Sym) (s : State) : Micro State :=
  if k / 4 < s.cap.toNat then orGroup k g s else .ended (finish s.cfg.eOverrun s)

/-- The head of `s.q` on the event port (R43, R209). -/
def present (e : Event) (s : State) : State :=
  { s with evValid := true, evKind := e.kind.code, evFlags := e.flags }

/-- No event on the port: EV_VALID = 0, and EV_KIND and EV_FLAGS, of which R43 says nothing then, take free values. -/
def withdraw (s : State) : State :=
  { s with evValid := false, evKind := Config.freeEvKind s.freeIdx, evFlags := Config.freeEvFlags s.freeIdx,
           freeIdx := s.freeIdx + 1 }

/-- A host read's data, handed to the host. -/
def answerRead (v : Word) (s : State) : State := { s with reads := s.reads ++ [v] }

end Sys2Proof.Machine
end

