-- ==== Sys2Proof/Machine/DecodeStub.lean ====
section
/-! DEFINITION. DECODE, the stub that returns 0 (R230 to R232), and the rejection of an illegal command word (R243). -/

namespace Sys2Proof.Machine

/-- DECODE's part of ISSUE: state X_DECODE, whose single step is `finish(0)` (R232, R241). -/
def startDecode (s : State) : State := { s with eng := .xDecode }

/-- The meaning of DECODE: its issue (R230, R241); `coreStep` completes it. -/
def execDecode (s : State) : Host.Outcome State Fault Refusal := issue 3#2 startDecode s

/-- A word with RSVD ≠ 0 written to CMD: `raise CmdError(E_ILLEGAL)` at issue, nothing latched (R84, R241, R243). -/
def illegalCommand (s : State) : Host.Outcome State Fault Refusal :=
  if s.busy then .next s else .next (finish s.cfg.eIllegal (clearStatus s))

end Sys2Proof.Machine
end

