-- ==== Sys2Proof/Machine/Dispatcher.lean ====
section
/-! DEFINITION. DISPATCH: its issue, the 2-bit unpacker with the silence count (D_WALK), and the delivery of events to
the collaborator (D_EMIT) (R190 to R212). -/

namespace Sys2Proof.Machine

/-- DISPATCH's part of ISSUE (R191, R241), and the walk's start (R190). -/
def startDispatch (s : State) : State :=
  if s.cfg.bufSize < s.dlen.toNat then finish s.cfg.eRange s
  else { s with eng := .dWalk, bi := 0, slot := 0, cnt := 0#4, q := [] }

/-- The meaning of DISPATCH: its issue (R190, R241); `coreStep` and the collaborator run the accepted command. -/
def execDispatch (s : State) : Host.Outcome State Fault Refusal := issue 2#2 startDispatch s

/-- FLUSH: the pending silence, if any (R199). -/
def flushEvents (s : State) : List Event :=
  if s.cnt = 0#4 then [] else [silenceEvent s.cfg s.base (spaceClass s.cnt.toNat)]

/-- One slot visited (R193 to R197, R201): END_CHAR counts, NUL is skipped, a sound flushes and is followed by INTRA. -/
def visitSymbol (sym : Sym) (s : State) : State :=
  if sym = symEndChar then { s with cnt := countEndChar s.cnt }
  else if sym = symNul then s
  else { s with q := s.q ++ flushEvents s ++ [soundEvent s.base sym, silenceEvent s.cfg s.base .intra], cnt := 0#4 }

/-- The walk's cursor after a visit: the next slot, or slot 0 of the next byte (R193). -/
def advanceSlot (s : State) : State :=
  if s.slot = 3 then { s with bi := s.bi + 1, slot := 0 } else { s with slot := s.slot + 1 }

/-- Every slot has been visited (R209). -/
def State.allVisited (s : State) : Bool := decide (s.dlen.toNat ≤ s.bi)

/-- The last FLUSH, once every slot has been visited (R200, R209). -/
def finalFlush (s : State) : State := if s.allVisited then { s with q := s.q ++ flushEvents s } else s

/-- The state after a walk step (R209): D_EMIT with the head presented, D_WALK, or D_FIN. -/
def toEmitOrWalk (s : State) : State :=
  match s.q with
  | e :: _ => present e { s with eng := .dEmit }
  | [] => { s with eng := if s.allVisited then .dFin else .dWalk }

/-- The byte under the cursor: read from BUF at slot 0, held for slots 1 to 3 (R190, R192). -/
def currentByte (s : State) : Micro Byte := if s.slot = 0 then readBuf s.bi s else .ok s.b

/-- D_WALK (R209): the next slot visited, or, when none is left, only the last FLUSH. -/
def walkStep (s : State) : Micro State :=
  if s.allVisited then .ok (toEmitOrWalk (finalFlush s))
  else
    (currentByte s).bind fun v =>
      .ok (toEmitOrWalk (finalFlush (advanceSlot (visitSymbol (slotOf v s.slot.val) { s with b := v }))))

/-- The collaborator takes the presented event (R209, R212): it is delivered, popped, and the next one presented, or
the walk goes on, or it is over.  With EV_VALID = 0, EV_READY is ignored (R213). -/
def acceptEvent (s : State) : State :=
  if s.evValid then
    match s.q with
    | [] => s
    | e :: rest =>
      match rest with
      | e' :: _ => present e' { s with delivered := s.delivered ++ [e], q := rest }
      | [] =>
        withdraw { s with delivered := s.delivered ++ [e], q := rest, eng := if s.allVisited then .dFin else .dWalk }
  else s

end Sys2Proof.Machine
end

