-- ==== Sys2Proof/Machine/Classifier.lean ====
section
/-! DEFINITION. CLASSIFY, LOOKUP and RESOLVE, the micro-operations of ENCODE's main loop (R106, R120 to R133, R145). -/

namespace Sys2Proof.Machine

/-- `is_letter(b)` (R121). -/
def isLetter (b : Byte) : Bool :=
  (decide (0x41#8 ≤ b) && decide (b ≤ 0x5A#8)) || (decide (0x61#8 ≤ b) && decide (b ≤ 0x7A#8))

/-- `norm(b)`, applied only to letters (R122). -/
def norm (b : Byte) : Byte := if 0x61#8 ≤ b then b - 0x20#8 else b

/-- `is_number(b)` (R123). -/
def isNumber (b : Byte) : Bool := decide (0x30#8 ≤ b) && decide (b ≤ 0x39#8)

/-- `is_space(b)` (R124). -/
def isSpace (b : Byte) : Bool := b == 0x09#8 || b == 0x20#8

/-- `is_stop(b)` (R125). -/
def isStop (b : Byte) : Bool := decide (0x01#8 ≤ b) && decide (b ≤ 0x1F#8) && b != 0x09#8

/-- `CLASSIFY(b)` (R127). -/
def classify (b : Byte) : CharClass :=
  if isLetter b then .letter (norm b)
  else if isNumber b then .number b
  else if isSpace b then .space
  else if isStop b then .stop
  else .ignored

/-- Entry `c - first` of a ROM; out of range is ROM_INDEX (R106). -/
def lookup (rom : List Code) (first c : Byte) : Micro Code :=
  if first ≤ c then
    match rom[(c - first).toNat]? with
    | some cc => .ok cc
    | none => .fault .romIndex
  else .fault .romIndex

/-- `RESOLVE`: the character code of a class, none for IGNORED (R145). -/
def resolve (c : Config) : CharClass → Micro (Option Code)
  | .letter ch => (lookup c.letterRom 0x41#8 ch).bind fun cc => .ok (some cc)
  | .number ch => (lookup c.digitRom 0x30#8 ch).bind fun cc => .ok (some cc)
  | .space => .ok (some c.endWordCode)
  | .stop => .ok (some endStop)
  | .ignored => .ok none

end Sys2Proof.Machine
end

