-- ==== Sys2Proof/Machine/Encode.lean ====
section
/-! DEFINITION. ENCODE_ALIGNED and ENCODE_COMPACT: their issue, the two append rules and the engine states E_CLEAR,
E_SCAN, E_TERM and E_FIN (R140 to R161). -/

namespace Sys2Proof.Machine

/-- ENCODE's part of ISSUE: the checks in order, then E_CLEAR (R141, R241).  `j` is where E_CLEAR starts (R161). -/
def startEncode (mode : Mode) (s : State) : State :=
  if s.cap.toNat < threshold then finish s.cfg.eCapacity s
  else if s.cfg.bufSize < s.cap.toNat ∨ s.cfg.textSize < s.tlen.toNat then finish s.cfg.eRange s
  else { s with mode := mode, eng := .eClear, j := 0 }

/-- The meaning of ENCODE_ALIGNED: its issue (R140, R241); `coreStep` runs the accepted command. -/
def execEncodeAligned (s : State) : Host.Outcome State Fault Refusal := issue 0#2 (startEncode .aligned) s

/-- The meaning of ENCODE_COMPACT: its issue (R140, R241); `coreStep` runs the accepted command. -/
def execEncodeCompact (s : State) : Host.Outcome State Fault Refusal := issue 1#2 (startEncode .compact) s

/-- `SEP_A(cc)` (R152 (a)). -/
def sepAligned (cc : Code) : Bool := groupOf cc 0 != symEndChar

/-- `SEP_C(cc)` (R152 (b)). -/
def sepCompact (c : Config) (cc : Code) : Bool :=
  match c.compactSepTest with
  | .low => groupOf cc 0 != symEndChar
  | .high => groupOf cc (ngroups cc - 1) != symEndChar

/-- The Aligned record of a code (R88, R146): low byte, high byte if there is one, separator 0x03 if the test says so. -/
def record (cc : Code) : List Byte :=
  [cc.extractLsb' 0 8] ++ (if 0xFF#16 < cc then [cc.extractLsb' 8 8] else []) ++ (if sepAligned cc then [0x03#8] else [])

/-- The Compact run of a code (R89, R153): its groups, then END_CHAR if the test says so. -/
def run (c : Config) (cc : Code) : List Sym :=
  (List.range (ngroups cc)).map (groupOf cc) ++ (if sepCompact c cc then [symEndChar] else [])

/-- `BW(s.p, v); s.p <- s.p + 1` (R146). -/
def putByte (v : Byte) (s : State) : Micro State :=
  (boundedWrite s.p v s).bind fun s' => .ok { s' with p := s'.p + 1 }

/-- The bytes of a record, in order (R146). -/
def putRecord : List Byte → State → Micro State
  | [], s => .ok s
  | v :: vs, s => (putByte v s).bind (putRecord vs)

/-- `APPEND_ALIGNED(cc, limit)` with the look-ahead boundary check (R146, R147). -/
def appendAligned (cc : Code) (limit : Nat) (s : State) : Micro (State × Bool) :=
  if limit < s.p + (record cc).length then .ok (s, false)
  else (putRecord (record cc) s).bind fun s' => .ok (s', true)

/-- `BG(s.k, g); s.k <- s.k + 1` (R153). -/
def putGroup (g : Sym) (s : State) : Micro State :=
  (boundedGroup s.k g s).bind fun s' => .ok { s' with k := s'.k + 1 }

/-- The groups of a run, in order (R153). -/
def putRun : List Sym → State → Micro State
  | [], s => .ok s
  | g :: gs, s => (putGroup g s).bind (putRun gs)

/-- `APPEND_COMPACT(cc, limit)` with the look-ahead boundary check (R153, R155). -/
def appendCompact (cc : Code) (limit : Nat) (s : State) : Micro (State × Bool) :=
  if 4 * limit < s.k + (run s.cfg cc).length then .ok (s, false)
  else (putRun (run s.cfg cc) s).bind fun s' => .ok (s', true)

/-- `APPEND(mode, cc, limit)` (R140). -/
def append (cc : Code) (limit : Nat) (s : State) : Micro (State × Bool) :=
  match s.mode with
  | .aligned => appendAligned cc limit s
  | .compact => appendCompact cc limit s

/-- The effective capacity `s.cap - THRESHOLD` (R142), at least 0 by R141. -/
def effective (s : State) : Nat := s.cap.toNat - threshold

/-- The main loop goes on (R140, R161). -/
def State.scanning (s : State) : Bool := decide (s.i < s.tlen.toNat) && !s.halted

/-- E_SCAN while the main loop goes on, otherwise E_TERM (R161). -/
def toScanOrTerm (s : State) : State := { s with eng := if s.scanning then .eScan else .eTerm }

/-- The cursors at the start of the main loop (R144). -/
def resetCursors (s : State) : State := { s with i := 0, p := 0, k := 0, halted := false }

/-- E_CLEAR: `BW(j, 0)` for the next `j`; after the last byte the main loop starts (R143, R161). -/
def clearStep (s : State) : Micro State :=
  (boundedWrite s.j 0#8 s).bind fun s' =>
    if s'.j + 1 < s'.cap.toNat then .ok { s' with j := s'.j + 1 }
    else .ok (toScanOrTerm (resetCursors { s' with j := 0 }))

/-- What the append's answer does to the loop (R140, R150). -/
def haltUnless (fits : Bool) (s : State) : State := if fits then s else { s with halted := true }

/-- E_SCAN: one iteration of the main loop (R140, R145, R150, R161).  With nothing left to scan it only moves on. -/
def scanStep (s : State) : Micro State :=
  if s.scanning then
    (readText s.i s).bind fun v =>
      (resolve s.cfg (classify v)).bind fun code =>
        match code with
        | none => .ok (toScanOrTerm { s with i := s.i + 1 })
        | some cc =>
          (append cc (effective s) { s with i := s.i + 1, cc := cc }).bind fun r =>
            .ok (toScanOrTerm (haltUnless r.2 r.1))
  else .ok { s with eng := .eTerm }

/-- E_TERM: `APPEND(mode, END_STOP, s.cap)` (R151, R161). -/
def termStep (s : State) : Micro State :=
  (append endStop s.cap.toNat s).bind fun r => .ok { r.1 with eng := .eFin }

/-- The returned length `L` (R157). -/
def encodedLength (s : State) : Nat :=
  match s.mode with
  | .aligned => s.p
  | .compact => (s.k + 3) / 4

/-- E_FIN: TRUNC, then `finish(L)` (R140, R157, R245). -/
def finStep (s : State) : State := finish (BitVec.ofNat 32 (encodedLength s)) { s with trunc := s.halted }

end Sys2Proof.Machine
end

