-- ==== Sys2Proof/Machine/Dispatch.lean ====
section
/-! DEFINITION. One arm per constructor of Instr. -/

namespace Sys2Proof.Machine

def exec (i : Instr) (s : State) : Host.Outcome State Fault Refusal :=
  match i with
  | .encodeAligned => Sys2Proof.Machine.execEncodeAligned s
  | .encodeCompact => Sys2Proof.Machine.execEncodeCompact s
  | .dispatch => Sys2Proof.Machine.execDispatch s
  | .decode => Sys2Proof.Machine.execDecode s

end Sys2Proof.Machine
end

