-- ==== Sys2Proof/Machine/Bus.lean ====
section
/-! DEFINITION. The host agent: one bus transaction (R26 to R34, R60 to R64, R68, R73, R241 to R243). -/

namespace Sys2Proof.Machine

/-- A host write to CMD: ISSUE (R241); an illegal word is rejected (R243). -/
def writeCmd (w : Word) (s : State) : Host.Outcome State Fault Refusal :=
  match decodeCmd w with
  | .ok i => exec i s
  | .error _ => illegalCommand s

/-- A register access must be 32 bits wide at a multiple of 4 (R64). -/
def registerAccessOk (offset width : Nat) : Bool := width == 32 && offset % 4 == 0

/-- A host read of byte `a` of a memory of `size` bytes: 0 where the address is reserved (R60, R61), a free value where
nothing has written the byte (R37). -/
def windowRead (m : Memory) (size a : Nat) (s : State) : State :=
  if size ≤ a then answerRead 0#32 s
  else
    match m.read a with
    | some v => answerRead (v.setWidth 32) s
    | none => answerRead ((Config.freeByte s.freeIdx).setWidth 32) { s with freeIdx := s.freeIdx + 1 }

/-- A host access to the TEXT or BUF window: 8 bits only (R64), and not while BUSY = 1 (R73). -/
def windowAccess (width : Nat) (effect : State → State) (s : State) : Host.Outcome State Fault Refusal :=
  if width ≠ 8 then .fault .badAccess
  else if s.busy then .fault .windowWhileBusy
  else .next (effect s)

/-- A host read. -/
def hostRead (addr : BitVec 18) (width : Nat) (s : State) : Host.Outcome State Fault Refusal :=
  match region addr with
  | .register off =>
    if registerAccessOk off width then
      match hostReg off with
      | some r => .next (answerRead (readReg s r) s)
      | none => .next (answerRead 0#32 s)
    else .fault .badAccess
  | .text a => windowAccess width (fun t => windowRead t.text t.cfg.textSize a t) s
  | .buf a => windowAccess width (fun t => windowRead t.buf t.cfg.bufSize a t) s
  | .reserved => .next (answerRead 0#32 s)

/-- A host write of a TEXT byte; ignored where the address is reserved (R60, R61). -/
def writeTextByte (a : Nat) (v : Byte) (s : State) : State :=
  if a < s.cfg.textSize then { s with text := s.text.write a v } else s

/-- A host write of a BUF byte; ignored where the address is reserved (R60, R61). -/
def writeBufByte (a : Nat) (v : Byte) (s : State) : State :=
  if a < s.cfg.bufSize then { s with buf := s.buf.write a v } else s

/-- A host write. -/
def hostWrite (addr : BitVec 18) (width : Nat) (d : Word) (s : State) : Host.Outcome State Fault Refusal :=
  match region addr with
  | .register off =>
    if registerAccessOk off width then
      match hostReg off with
      | some .cmd => writeCmd d s
      | some r => .next (writeReg d s r)
      | none => .next s
    else .fault .badAccess
  | .text a => windowAccess width (writeTextByte a (d.setWidth 8)) s
  | .buf a => windowAccess width (writeBufByte a (d.setWidth 8)) s
  | .reserved => .next s

/-- One host bus transaction (R93). -/
def hostAccess (op : BusOp) (s : State) : Host.Outcome State Fault Refusal :=
  match op with
  | .read addr width => hostRead addr width s
  | .write addr width d => hostWrite addr width d s

end Sys2Proof.Machine
end

