-- ==== Sys2Proof/Machine/Engine.lean ====
section
/-! DEFINITION. The core agent: one engine step (R161, R209, R232), and runs of core steps. -/

namespace Sys2Proof.Machine

/-- One step of the core.  In IDLE it has none, and in D_EMIT it waits for the collaborator (R209, R256): the state
stays as it is. -/
def coreStep (s : State) : Host.Outcome State Fault Refusal :=
  match s.eng with
  | .idle => .next s
  | .eClear => (clearStep s).toOutcome
  | .eScan => (scanStep s).toOutcome
  | .eTerm => (termStep s).toOutcome
  | .eFin => .next (finStep s)
  | .dWalk => (walkStep s).toOutcome
  | .dEmit => .next s
  | .dFin => .next (finish 0#32 s)
  | .xDecode => .next (finish 0#32 s)

/-- `n` core steps, stopping at a fault. -/
def coreRun : Nat → State → Host.Outcome State Fault Refusal
  | 0, s => .next s
  | n + 1, s =>
    match coreStep s with
    | .next s' => coreRun n s'
    | .fault f => .fault f
    | .refused r => .refused r

/-- A step of the core with a collaborator that accepts every event as soon as it is presented (R213). -/
def servedStep (s : State) : Host.Outcome State Fault Refusal :=
  if s.evValid then .next (acceptEvent s) else coreStep s

/-- `n` such steps, stopping at a fault. -/
def servedRun : Nat → State → Host.Outcome State Fault Refusal
  | 0, s => .next s
  | n + 1, s =>
    match servedStep s with
    | .next s' => servedRun n s'
    | .fault f => .fault f
    | .refused r => .refused r

end Sys2Proof.Machine
end

