-- ==== Sys2Proof/Machine/Agents.lean ====
section
/-! DEFINITION. The four agents together: reset (R270), and one atomic step of the agent the schedule names (R19). -/

namespace Sys2Proof.Machine

/-- An ENCODE is running (R40). -/
def State.encoding (s : State) : Bool :=
  match s.eng with
  | .eClear => true
  | .eScan => true
  | .eTerm => true
  | .eFin => true
  | .idle => false
  | .dWalk => false
  | .dEmit => false
  | .dFin => false
  | .xDecode => false

/-- An assertion of reset (R270): R46's value for every item; TEXT and BUF kept, but for the bytes below the latched
capacity of an abandoned ENCODE, which become unwritten.  The model's own items go on. -/
def resetBlock (s : State) : State :=
  { State.powerOn s.cfg with
    text := s.text
    buf := if s.encoding then s.buf.forget s.cap.toNat else s.buf
    schedule := s.schedule
    delivered := s.delivered
    reads := s.reads
    freeIdx := s.freeIdx }

/-- One atomic step of one agent (R19, R284). -/
def act (a : Action) (s : State) : Host.Outcome State Fault Refusal :=
  match a with
  | .host op => hostAccess op s
  | .core => coreStep s
  | .accept => .next (acceptEvent s)
  | .reset => .next (resetBlock s)

/-- The next step of the block: the next scheduled one, or, when the outside does nothing, the core's.  A configuration
outside R9 is refused (R102, R250). -/
def agentStep (s : State) : Host.Outcome State Fault Refusal :=
  if s.cfg.wellFormed then
    match s.schedule with
    | [] => coreStep s
    | a :: rest => act a { s with schedule := rest }
  else if s.cfg.romOk then .refused .badConfig
  else .refused .badRom

end Sys2Proof.Machine
end

