-- ==== Sys2Proof/Machine/Step.lean ====
section
/-! DEFINITION. One step of the machine, and how an instruction is placed where step takes its next one. -/

namespace Sys2Proof.Machine

/-- One atomic step of the block and its agents. -/
def step (s : State) : Host.Outcome State Fault Refusal := agentStep s

/-- The host's next bus transaction is the 32-bit write of the command word `w` to CMD (R80): that is where this
machine, which fetches nothing (R35), gets its next instruction. -/
def State.withFetchWord (s : State) (nbits w : Nat) : State :=
  { s with schedule := .host (.write 0x000#18 32 (BitVec.ofNat 32 (w % 2 ^ nbits))) :: s.schedule }

end Sys2Proof.Machine
end

