-- ==== Sys2Proof/Machine/HostProgram.lean ====
section
/-! DEFINITION. The host program notation of R93 and R94: each primitive is one bus transaction, each
pseudo-instruction a list of them. -/

namespace Sys2Proof.Machine

/-- `WR <reg>, <v>` (R93). -/
def wr (r : HostReg) (v : Word) : BusOp := .write r.offset 32 v

/-- `RD <reg>` (R93). -/
def rd (r : HostReg) : BusOp := .read r.offset 32

/-- `WB TEXT[i], <b>` (R93). -/
def wbText (i : Nat) (b : Byte) : BusOp := .write (BitVec.ofNat 18 (0x10000 + i)) 8 (b.setWidth 32)

/-- `WB BUF[i], <b>` (R93). -/
def wbBuf (i : Nat) (b : Byte) : BusOp := .write (BitVec.ofNat 18 (0x20000 + i)) 8 (b.setWidth 32)

/-- The read of one TEXT byte, for which R93 has no syntax: the TEXT window's transaction (R60, R62). -/
def rbText (i : Nat) : BusOp := .read (BitVec.ofNat 18 (0x10000 + i)) 8

/-- `RB BUF[i]` (R93). -/
def rbBuf (i : Nat) : BusOp := .read (BitVec.ofNat 18 (0x20000 + i)) 8

/-- `TXT i, "s"` (R94). -/
def txt : Nat → List Byte → List BusOp
  | _, [] => []
  | i, c :: cs => wbText i c :: txt (i + 1) cs

/-- `ENC.A` (R94). -/
def encA : BusOp := wr .cmd 0x00000000#32

/-- `ENC.C` (R94). -/
def encC : BusOp := wr .cmd 0x00000001#32

/-- `DSP` (R94). -/
def dsp : BusOp := wr .cmd 0x00000002#32

/-- `DEC` (R94). -/
def dec : BusOp := wr .cmd 0x00000003#32

/-- `ACK` (R94). -/
def ack : BusOp := wr .status 0x00000002#32

/-- `WAIT` expanded to `n` polls (R94).  The host's test of bit 1 is host software; R284 leaves `n` open, and the
schedule says how many core steps lie between. -/
def waitPolls (n : Nat) : List BusOp := List.replicate n (rd .status)

/-- `EXPECT_EV <list>` (R94): between the state `before` and the state `after` the collaborator has accepted exactly
these events, in this order.  R94 does not say over which span the list runs.  DESIGN CHOICE, log entry 25: over the span
the program's writer names, in P1, P2 and P5 from one DSP to the EXPECT_EV after it. -/
def expectEv (es : List Event) (before after : State) : Bool := after.delivered == before.delivered ++ es

end Sys2Proof.Machine
end

