-- ==== Sys2Proof/Safety.lean ====
section
/-! DEFINITION. What the statements are made of: the machine's invariant (what a state of a run looks like), and the
plain description of an encoded stream and of a dispatched event sequence that the engines are held to. -/

namespace Sys2Proof.Machine

/-! ## The invariant -/

/-- A value of ADDR_W bits (R30 to R32, R39). -/
def fitsAddr (c : Config) (v : BitVec 16) : Prop := v.toNat < 2 ^ c.addrW

/-- A DISPATCH is running (R40). -/
def State.dispatching (s : State) : Bool :=
  match s.eng with
  | .dWalk => true
  | .dEmit => true
  | .dFin => true
  | .idle => false
  | .eClear => false
  | .eScan => false
  | .eTerm => false
  | .eFin => false
  | .xDecode => false

/-- The latched operands of a running ENCODE passed its checks, and the mode is the opcode's (R141, R241). -/
structure EncodeOperands (s : State) : Prop where
  capLow : 2 ≤ s.cap.toNat
  capHigh : s.cap.toNat ≤ s.cfg.bufSize
  tlenHigh : s.tlen.toNat ≤ s.cfg.textSize
  opMode : (s.op = 0#2 ∧ s.mode = .aligned) ∨ (s.op = 1#2 ∧ s.mode = .compact)

/-- The latched operand of a running DISPATCH passed its check (R191, R241). -/
structure DispatchOperands (s : State) : Prop where
  dlenHigh : s.dlen.toNat ≤ s.cfg.bufSize
  op : s.op = 2#2

/-- Every byte below the latched capacity has been written (R143). -/
def bufCleared (s : State) : Prop := ∀ a, a < s.cap.toNat → (s.buf.read a).isSome = true

/-- The write position is within the effective capacity (R147, R155, R160). -/
def withinMargin (s : State) : Prop := s.p ≤ effective s ∧ s.k ≤ 4 * effective s

/-- In the middle of a byte, the held byte is the one BUF holds (R192). -/
def byteHeld (s : State) : Prop := s.slot ≠ 0 → s.buf.read s.bi = some s.b

/-- What holds of the datapath in each engine state (R161, R209). -/
def EngineInv (s : State) : Prop :=
  match s.eng with
  | .idle => True
  | .eClear => EncodeOperands s ∧ s.j < s.cap.toNat ∧ ∀ a, a < s.j → s.buf.read a = some 0#8
  | .eScan => EncodeOperands s ∧ bufCleared s ∧ withinMargin s ∧ s.i < s.tlen.toNat ∧ s.halted = false
  | .eTerm => EncodeOperands s ∧ bufCleared s ∧ withinMargin s ∧ s.i ≤ s.tlen.toNat
  | .eFin =>
    EncodeOperands s ∧ bufCleared s ∧ 2 ≤ encodedLength s ∧ encodedLength s ≤ s.cap.toNat ∧ s.i ≤ s.tlen.toNat
  | .dWalk => DispatchOperands s ∧ (s.bi < s.dlen.toNat ∨ (s.dlen.toNat = 0 ∧ s.bi = 0)) ∧ byteHeld s
  | .dEmit => DispatchOperands s ∧ s.bi ≤ s.dlen.toNat ∧ byteHeld s
  | .dFin => DispatchOperands s ∧ s.bi = s.dlen.toNat
  | .xDecode => s.op = 3#2

/-- The event port and the queue (R42, R43, R209): EV_VALID exactly in D_EMIT, showing the head of `s.q`. -/
def PortInv (s : State) : Prop :=
  s.evValid = decide (s.eng = .dEmit) ∧ s.q.length ≤ 3 ∧
  match s.q with
  | [] => s.eng ≠ .dEmit
  | e :: _ => s.eng = .dEmit ∧ s.evKind = e.kind.code ∧ s.evFlags = e.flags

/-- The invariant of the machine. -/
structure Inv (s : State) : Prop where
  /-- The parameters are legal (R9). -/
  config : s.cfg.wellFormed = true
  /-- TEXT is canonical and within its size (R36). -/
  text : s.text.wf = true ∧ ∀ c ∈ s.text, c.1 < s.cfg.textSize
  /-- BUF is canonical and within its size (R36). -/
  buf : s.buf.wf = true ∧ ∀ c ∈ s.buf, c.1 < s.cfg.bufSize
  /-- Bits 31:ADDR_W of the operand registers are 0 (R30, R31, R32), of the latched copies too (R39). -/
  widths : fitsAddr s.cfg s.textLen ∧ fitsAddr s.cfg s.capacity ∧ fitsAddr s.cfg s.length ∧
    fitsAddr s.cfg s.tlen ∧ fitsAddr s.cfg s.cap ∧ fitsAddr s.cfg s.dlen
  /-- `s.base` has no low nibble (R39). -/
  base : s.base &&& 0x0F#8 = 0#8
  /-- While BUSY = 1, DONE, ERR and TRUNC are 0 (R241, R279). -/
  busyStatus : s.busy = true → s.done = false ∧ s.err = false ∧ s.trunc = false
  /-- While BUSY = 0, ERR is the sign of RESULT (R28, R245). -/
  idleErr : s.busy = false → s.err = s.result.msb
  /-- TRUNC reports a success (R150, R245). -/
  truncOk : s.trunc = true → s.err = false
  port : PortInv s
  engine : EngineInv s

/-- Slot of group position `g` in BUF: slot `g % 4` of byte `g / 4` (R89, R155). -/
def groupAt (s : State) (g : Nat) : Option Sym := (s.buf.read (g / 4)).map fun v => slotOf v (g % 4)

/-- While a Compact ENCODE appends, the groups below `s.k` are not NUL and those from `s.k` up to the capacity are: the
free-slot scan of the source finds exactly `s.k` (R154). -/
def CompactFrontier (s : State) : Prop :=
  (s.eng = .eScan ∨ s.eng = .eTerm) → s.mode = .compact →
    ∀ g, g < 4 * s.cap.toNat →
      ∃ sym, groupAt s g = some sym ∧ (g < s.k → sym ≠ symNul) ∧ (s.k ≤ g → sym = symNul)

/-! ## The encoded stream (R90) -/

/-- The character code a text byte contributes, none for IGNORED (R145). -/
def codeOf (c : Config) (v : Byte) : Option Code :=
  match resolve c (classify v) with
  | .ok r => r
  | .ended _ => none
  | .fault _ => none

/-- The codes of the accepted characters, in input order (R90). -/
def acceptedCodes (c : Config) (text : List Byte) : List Code := text.filterMap (codeOf c)

/-- The codes appended before the first one that does not fit (R150): `size` units each, `used` taken, `limit` in all. -/
def fitting (size : Code → Nat) (limit : Nat) : Nat → List Code → List Code
  | _, [] => []
  | used, cc :: ccs => if limit < used + size cc then [] else cc :: fitting size limit (used + size cc) ccs

/-- The codes of a text that the main loop appends in a mode at a capacity (R147, R150, R155). -/
def appendedCodes (c : Config) (mode : Mode) (cap : Nat) (text : List Byte) : List Code :=
  match mode with
  | .aligned => fitting (fun cc => (record cc).length) (cap - threshold) 0 (acceptedCodes c text)
  | .compact => fitting (fun cc => (run c cc).length) (4 * (cap - threshold)) 0 (acceptedCodes c text)

/-- The main loop is truncated (R150). -/
def truncated (c : Config) (mode : Mode) (cap : Nat) (text : List Byte) : Bool :=
  decide ((appendedCodes c mode cap text).length < (acceptedCodes c text).length)

/-- The bytes of an Aligned result: the records, then END_STOP's (R90). -/
def alignedStream (c : Config) (cap : Nat) (text : List Byte) : List Byte :=
  (appendedCodes c .aligned cap text).flatMap record ++ record endStop

/-- The groups of a Compact result: the runs, then END_STOP's (R90). -/
def compactStream (c : Config) (cap : Nat) (text : List Byte) : List Sym :=
  (appendedCodes c .compact cap text).flatMap (run c) ++ run c endStop

/-- Byte `a` of packed groups: groups 4a to 4a+3 in slots 0 to 3, NUL where there is none (R22, R89). -/
def packedByte (gs : List Sym) (a : Nat) : Byte :=
  placeGroup (gs[4 * a]?.getD symNul) 0 ||| placeGroup (gs[4 * a + 1]?.getD symNul) 1 |||
  placeGroup (gs[4 * a + 2]?.getD symNul) 2 ||| placeGroup (gs[4 * a + 3]?.getD symNul) 3

/-- The length `L` of an encode (R157). -/
def streamLength (c : Config) (mode : Mode) (cap : Nat) (text : List Byte) : Nat :=
  match mode with
  | .aligned => (alignedStream c cap text).length
  | .compact => ((compactStream c cap text).length + 3) / 4

/-- BUF[a] below the capacity after an encode (R158). -/
def streamByte (c : Config) (mode : Mode) (cap : Nat) (text : List Byte) (a : Nat) : Byte :=
  match mode with
  | .aligned => (alignedStream c cap text)[a]?.getD 0#8
  | .compact => packedByte (compactStream c cap text) a

/-- TEXT[0 .. n-1] holds `text`, where `n` is its length. -/
def holdsText (s : State) (text : List Byte) : Prop := ∀ a, a < text.length → s.text.read a = text[a]?

/-- BUF[0 .. n-1] holds `bytes`, where `n` is its length. -/
def holdsBuf (s : State) (bytes : List Byte) : Prop := ∀ a, a < bytes.length → s.buf.read a = bytes[a]?

/-- An idle block whose registers pass ENCODE's checks (R141), with the text written (R275, E1 to E4). -/
structure ReadyToEncode (s : State) (text : List Byte) : Prop where
  config : s.cfg.wellFormed = true
  idle : s.busy = false
  capLow : 2 ≤ s.capacity.toNat
  capHigh : s.capacity.toNat ≤ s.cfg.bufSize
  tlenHigh : s.textLen.toNat ≤ s.cfg.textSize
  tlen : s.textLen.toNat = text.length
  text : holdsText s text

/-- The core steps that suffice for an accepted ENCODE (R161). -/
def encodeSteps (s : State) : Nat := s.capacity.toNat + s.textLen.toNat + 2

/-! ## The dispatched events (R190) -/

/-- FLUSH of an unbounded silence count (R199). -/
def flushOf (c : Config) (base : Byte) (n : Nat) : List Event :=
  if n = 0 then [] else [silenceEvent c base (spaceClass n)]

/-- The events of a symbol sequence, the silence count `n` so far not saturated (R190). -/
def eventsFrom (c : Config) (base : Byte) : Nat → List Sym → List Event
  | n, [] => flushOf c base n
  | n, sym :: syms =>
    if sym = symEndChar then eventsFrom c base (n + 1) syms
    else if sym = symNul then eventsFrom c base n syms
    else flushOf c base n ++ [soundEvent base sym, silenceEvent c base .intra] ++ eventsFrom c base 0 syms

/-- The four slots of a byte, in time order (R22, R193). -/
def slotsOf (v : Byte) : List Sym := [slotOf v 0, slotOf v 1, slotOf v 2, slotOf v 3]

/-- The events DISPATCH emits for the bytes it walks (R190). -/
def eventsOf (c : Config) (base : Byte) (bytes : List Byte) : List Event :=
  eventsFrom c base 0 (bytes.flatMap slotsOf)

/-- An idle block whose registers pass DISPATCH's check (R191), with the bytes to walk written (R275, D1 to D4). -/
structure ReadyToDispatch (s : State) (bytes : List Byte) : Prop where
  config : s.cfg.wellFormed = true
  idle : s.busy = false
  port : s.evValid = false
  dlenHigh : s.length.toNat ≤ s.cfg.bufSize
  dlen : s.length.toNat = bytes.length
  bytes : holdsBuf s bytes

/-- The symbols still to visit from the walk's cursor on, over the bytes the walk covers (R193). -/
def symbolsLeft (s : State) (bytes : List Byte) : List Sym :=
  (bytes.flatMap slotsOf).drop (4 * s.bi + s.slot.val)

/-- The events a running DISPATCH has produced and not delivered, and those it will still produce (R190, R209):
nothing more to flush once every slot has been visited. -/
def pendingEvents (s : State) (bytes : List Byte) : List Event :=
  s.q ++ match s.eng with
    | .dWalk => eventsFrom s.cfg s.base s.cnt.toNat (symbolsLeft s bytes)
    | .dEmit => if s.allVisited then [] else eventsFrom s.cfg s.base s.cnt.toNat (symbolsLeft s bytes)
    | .dFin => []
    | .idle => []
    | .eClear => []
    | .eScan => []
    | .eTerm => []
    | .eFin => []
    | .xDecode => []

/-- The kind and spacing code of an event: what is left when bits 7:4 of its flags are dropped (R203, R214). -/
def Event.shape (e : Event) : EventKind × Byte := (e.kind, e.flags &&& 0x0F#8)

/-- Two states of the block that agree in everything but the caller's flags: FLAGS, bits 7:4 of the latched base and of the
flags of the event on the port, of those queued and of those delivered, and what host reads have returned (a read of
FLAGS returns them).  The schedules are the same (R204, R214). -/
structure SameButFlags (s t : State) : Prop where
  /-- Every other field is equal. -/
  fields : t = { s with flags := t.flags, base := t.base, evFlags := t.evFlags, q := t.q, delivered := t.delivered,
                        reads := t.reads }
  base : s.base &&& 0x0F#8 = t.base &&& 0x0F#8
  evFlags : s.evFlags &&& 0x0F#8 = t.evFlags &&& 0x0F#8
  q : s.q.map Event.shape = t.q.map Event.shape
  delivered : s.delivered.map Event.shape = t.delivered.map Event.shape
  reads : s.reads.length = t.reads.length

end Sys2Proof.Machine
end

