-- ==== Sys2Proof/Certificates/Slice0/Obligations.lean ====
section
/-! DEFINITION. The statements for the provers.  A clause that rests on a choice of the model or on an inference names
the log entry. -/

open Sys2Proof Sys2Proof.Machine

/-! ## Encoding and step -/

/-- R81, R84: the four command words, written out bit by bit, decode to their commands, and words with a bit of RSVD set
to none.  A sanity check of the decoder. -/
def Obligations.DecoderReadsTheOpcodeMap : Prop :=
  decodeCmd 0b00000000000000000000000000000000#32 = .ok .encodeAligned ∧
  decodeCmd 0b00000000000000000000000000000001#32 = .ok .encodeCompact ∧
  decodeCmd 0b00000000000000000000000000000010#32 = .ok .dispatch ∧
  decodeCmd 0b00000000000000000000000000000011#32 = .ok .decode ∧
  decodeCmd 0b00000000000000000000000000000100#32 = .error .reservedBits ∧
  decodeCmd 0b00000000000000000000000000000111#32 = .error .reservedBits ∧
  decodeCmd 0b10000000000000000000000000000000#32 = .error .reservedBits ∧
  decodeCmd 0b11111111111111111111111111111111#32 = .error .reservedBits

/-- R81: the opcode map over the full 32-bit word.  The four match words; a word is a command exactly when it is that
command's word (so decoding an encoded command gives it back, and no other word does); and a word is illegal exactly
when w[31:2] is not 0. -/
def Obligations.WordDecodesExactlyToWhatItEncodes : Prop :=
  encode .encodeAligned = 0x00000000#32 ∧ encode .encodeCompact = 0x00000001#32 ∧ encode .dispatch = 0x00000002#32 ∧
  encode .decode = 0x00000003#32 ∧
  (∀ (w : Word) (i : Instr), decodeCmd w = .ok i ↔ w = encode i) ∧
  (∀ w : Word, decodeCmd w = .error .reservedBits ↔ w.toNat / 4 ≠ 0)

/-- R80, R241: the instruction of a CMD write is the one its word decodes to.  Where the next step of the schedule is
the host's 32-bit write of a command word to CMD, the step is `exec` of the decoded instruction, on the state with that
write taken off the schedule (the schedule is the model's own, log entry 1); and `withFetchWord` sets this up. -/
def Obligations.StepRunsTheDecodedCommand : Prop :=
  ∀ (s : State) (w : Word) (i : Instr) (rest : List Action),
    s.cfg.wellFormed = true → decodeCmd w = .ok i →
    step { s with schedule := .host (.write 0x000#18 32 w) :: rest } = exec i { s with schedule := rest } ∧
    step (s.withFetchWord 32 w.toNat) = exec i s

/-- R19, R284: a step under legal parameters is one atomic step of one agent: of the core when nothing else is scheduled,
else of the agent the schedule names, with its action taken off the schedule; and nothing is asked of the order, so every
interleaving is a schedule (the schedule is the model's own, log entry 1). -/
def Obligations.StepIsOneAgentsAtomicStep : Prop :=
  (∀ s : State, s.cfg.wellFormed = true → s.schedule = [] → step s = coreStep s) ∧
  (∀ (s : State) (a : Action) (rest : List Action), s.cfg.wellFormed = true → s.schedule = a :: rest →
    step s = act a { s with schedule := rest })

/-- R102 "A model refuses a ROM that does not": a block whose ROM is ill-formed is refused as BAD_ROM (R250).  That the
refusal comes at every step, and that any other parameter outside R9's legal values is refused as well, under the name
badConfig, is the model's choice (log entry 14). -/
def Obligations.IllegalConfigurationIsRefused : Prop :=
  ∀ s : State, s.cfg.wellFormed = false →
    (s.cfg.romOk = false → step s = .refused .badRom) ∧ (s.cfg.romOk = true → step s = .refused .badConfig)

/-! ## Issue of the four commands -/

/-- R241: an accepted ENCODE.  With BUSY = 0 and operands that pass the checks of R141, the issue clears DONE, ERR and
TRUNC, latches the operands, sets the mode of the opcode and enters E_CLEAR; nothing else changes.  (`j`, where E_CLEAR
starts, is state R161 implies: log entry 6.) -/
def Obligations.EncodeWithLegalOperandsIsAccepted : Prop :=
  ∀ s : State, s.busy = false → 2 ≤ s.capacity.toNat → s.capacity.toNat ≤ s.cfg.bufSize →
    s.textLen.toNat ≤ s.cfg.textSize →
    exec .encodeAligned s =
      .next { s with done := false, err := false, trunc := false, op := 0#2, tlen := s.textLen, cap := s.capacity,
                     dlen := s.length, base := s.flags &&& 0xF0#8, mode := .aligned, eng := .eClear, j := 0 } ∧
    exec .encodeCompact s =
      .next { s with done := false, err := false, trunc := false, op := 1#2, tlen := s.textLen, cap := s.capacity,
                     dlen := s.length, base := s.flags &&& 0xF0#8, mode := .compact, eng := .eClear, j := 0 }

/-- R241: an accepted DISPATCH.  With BUSY = 0 and LENGTH ≤ BUF_SIZE, the issue clears DONE, ERR and TRUNC, latches the
operands and enters D_WALK at slot 0 of BUF[0] with a zero silence count and an empty queue (R190; that the issue sets
them is log entry 6). -/
def Obligations.DispatchWithLegalLengthIsAccepted : Prop :=
  ∀ s : State, s.busy = false → s.length.toNat ≤ s.cfg.bufSize →
    exec .dispatch s =
      .next { s with done := false, err := false, trunc := false, op := 2#2, tlen := s.textLen, cap := s.capacity,
                     dlen := s.length, base := s.flags &&& 0xF0#8, eng := .dWalk, bi := 0, slot := 0, cnt := 0#4, q := [] }

/-- R230, R232: DECODE with BUSY = 0 is accepted whatever the registers and memories hold, and completes in the one core
step after it: RESULT = 0, DONE = 1, ERR = 0, TRUNC = 0, and nothing else changes but the latched operand copies of
R241 (log entry 7). -/
def Obligations.DecodeCompletesInOneCoreStep : Prop :=
  ∀ s : State, s.busy = false →
    ∃ t, exec .decode s = .next t ∧ t.busy = true ∧ t.done = false ∧ t.result = s.result ∧
      coreStep t =
        .next { s with result := 0#32, done := true, err := false, trunc := false, op := 3#2, tlen := s.textLen,
                       cap := s.capacity, dlen := s.length, base := s.flags &&& 0xF0#8 }

/-- R141, R241, R244, R248: an ENCODE with CAPACITY < 2 is rejected at issue with E_CAPACITY, whatever TEXT_LEN is: BUSY
stays 0, DONE = ERR = 1, TRUNC = 0, RESULT is the code, and nothing else changes but the latched operand copies (log
entry 7): no BUF byte is written. -/
def Obligations.EncodeBelowThresholdIsRejected : Prop :=
  ∀ s : State, s.cfg.wellFormed = true → s.busy = false → s.capacity.toNat < 2 →
    exec .encodeAligned s =
      .next { s with done := true, err := true, trunc := false, result := s.cfg.eCapacity, op := 0#2, tlen := s.textLen,
                     cap := s.capacity, dlen := s.length, base := s.flags &&& 0xF0#8 } ∧
    exec .encodeCompact s =
      .next { s with done := true, err := true, trunc := false, result := s.cfg.eCapacity, op := 1#2, tlen := s.textLen,
                     cap := s.capacity, dlen := s.length, base := s.flags &&& 0xF0#8 }

/-- R141, R241, R244: an ENCODE whose CAPACITY exceeds BUF_SIZE or whose TEXT_LEN exceeds TEXT_SIZE is rejected at issue
with E_RANGE, everything else as for E_CAPACITY (latched copies: log entry 7). -/
def Obligations.EncodeOutOfRangeIsRejected : Prop :=
  ∀ s : State, s.cfg.wellFormed = true → s.busy = false → 2 ≤ s.capacity.toNat →
    (s.cfg.bufSize < s.capacity.toNat ∨ s.cfg.textSize < s.textLen.toNat) →
    exec .encodeAligned s =
      .next { s with done := true, err := true, trunc := false, result := s.cfg.eRange, op := 0#2, tlen := s.textLen,
                     cap := s.capacity, dlen := s.length, base := s.flags &&& 0xF0#8 } ∧
    exec .encodeCompact s =
      .next { s with done := true, err := true, trunc := false, result := s.cfg.eRange, op := 1#2, tlen := s.textLen,
                     cap := s.capacity, dlen := s.length, base := s.flags &&& 0xF0#8 }

/-- R191, R241, R244: a DISPATCH whose LENGTH exceeds BUF_SIZE is rejected at issue with E_RANGE; no BUF byte is read and
no event is emitted (latched copies: log entry 7). -/
def Obligations.DispatchOutOfRangeIsRejected : Prop :=
  ∀ s : State, s.cfg.wellFormed = true → s.busy = false → s.cfg.bufSize < s.length.toNat →
    exec .dispatch s =
      .next { s with done := true, err := true, trunc := false, result := s.cfg.eRange, op := 2#2, tlen := s.textLen,
                     cap := s.capacity, dlen := s.length, base := s.flags &&& 0xF0#8 }

/-- R243 "If `w[31:2] != 0`, the command ends at issue with `raise CmdError(E_ILLEGAL)`": only STATUS and RESULT change;
nothing is latched, no memory is touched, and BUSY stays 0. -/
def Obligations.IllegalCommandWordIsRejected : Prop :=
  ∀ (s : State) (w : Word), s.cfg.wellFormed = true → s.busy = false → w.extractLsb' 2 30 ≠ 0#30 →
    act (.host (.write 0x000#18 32 w)) s =
      .next { s with done := true, err := true, trunc := false, result := s.cfg.eIllegal }

/-- R242 "A host write to CMD while STATUS.BUSY = 1 is ignored entirely": whatever the word, and for `exec` of every
command, the state is unchanged. -/
def Obligations.CommandWhileBusyIsIgnored : Prop :=
  ∀ s : State, s.busy = true →
    (∀ w : Word, act (.host (.write 0x000#18 32 w)) s = .next s) ∧ (∀ i : Instr, exec i s = .next s)

/-- The frame of the four commands' issue: the configuration, the control registers, both memories (every byte of each
reads as before), the encoder's cursors and code register, the walk's held byte, the event port, the delivered events,
the host's reads, the schedule and the free-value counter are unchanged; RESULT changes only if the command is
rejected (then DONE = 1); the mode and `j` change only by an ENCODE, the walk's cursor, count and queue only by a
DISPATCH. -/
def Obligations.IssueFrame : Prop :=
  ∀ (i : Instr) (s t : State), exec i s = .next t →
    t.cfg = s.cfg ∧ t.irqEn = s.irqEn ∧ t.textLen = s.textLen ∧ t.capacity = s.capacity ∧ t.length = s.length ∧
    t.flags = s.flags ∧ (∀ a, t.text.read a = s.text.read a) ∧ (∀ a, t.buf.read a = s.buf.read a) ∧
    t.i = s.i ∧ t.p = s.p ∧ t.k = s.k ∧ t.halted = s.halted ∧ t.cc = s.cc ∧ t.b = s.b ∧ t.evValid = s.evValid ∧
    t.evKind = s.evKind ∧ t.evFlags = s.evFlags ∧ t.schedule = s.schedule ∧ t.delivered = s.delivered ∧
    t.reads = s.reads ∧ t.freeIdx = s.freeIdx ∧ (t.result ≠ s.result → t.busy = false ∧ t.done = true) ∧
    ((i = .dispatch ∨ i = .decode) → t.mode = s.mode ∧ t.j = s.j) ∧
    (i ≠ .dispatch → t.bi = s.bi ∧ t.slot = s.slot ∧ t.cnt = s.cnt ∧ t.q = s.q)

/-! ## Completion, status and interrupt -/

/-- R245: `finish(v)` writes RESULT, sets ERR to the sign of `v`, clears BUSY, sets DONE and enters IDLE, and changes
nothing else; D_FIN and X_DECODE are `finish(0)` (R205, R232), so a finished DISPATCH reports RESULT = 0. -/
def Obligations.FinishCompletesTheCommand : Prop :=
  (∀ (v : Word) (s : State), finish v s = { s with result := v, err := v.slt 0#32, done := true, eng := .idle } ∧
    (finish v s).busy = false) ∧
  (∀ s : State, (s.eng = .dFin ∨ s.eng = .xDecode) →
    coreStep s = .next { s with result := 0#32, err := false, done := true, eng := .idle })

/-- R44, R247: IRQ is 0 after reset, and STATUS.DONE & CTRL.IRQ_EN as the host reads them in every state; acknowledging
(writing 1 to STATUS.DONE) clears it; clearing IRQ_EN masks it without clearing DONE; setting IRQ_EN while DONE = 1 raises it in the same step. -/
def Obligations.IrqIsDoneAndEnable : Prop :=
  State.reset.irq = false ∧
  (∀ s : State, s.irq = ((readReg s .status).getLsbD 1 && (readReg s .ctrl).getLsbD 0)) ∧
  (∀ s : State, ∃ t, act (.host ack) s = .next t ∧ t.irq = false ∧ t.irqEn = s.irqEn) ∧
  (∀ s : State, ∃ t, act (.host (wr .ctrl 0#32)) s = .next t ∧ t.irq = false ∧ t.done = s.done) ∧
  (∀ s : State, s.done = true → ∃ t, act (.host (wr .ctrl 1#32)) s = .next t ∧ t.irq = true)

/-- R28: the bits of STATUS as the host reads them, in every state: BUSY, DONE, ERR, TRUNC in bits 0 to 3 and 0 above;
BUSY = 1 exactly when `s.eng` is not IDLE (R40). -/
def Obligations.StatusBitsAsRead : Prop :=
  ∀ s : State,
    (readReg s .status).getLsbD 0 = decide (s.eng ≠ .idle) ∧ (readReg s .status).getLsbD 1 = s.done ∧
    (readReg s .status).getLsbD 2 = s.err ∧ (readReg s .status).getLsbD 3 = s.trunc ∧
    ∀ n, 4 ≤ n → (readReg s .status).getLsbD n = false

/-- R34 "RESULT holds its value until the next command completes": a step that changes RESULT is a core step that completes
the running command, or the host's write to CMD, with BUSY = 0, of a command that is rejected in that step (R241), or a
reset. -/
def Obligations.ResultChangesOnlyAtCompletionOrReset : Prop :=
  ∀ s t : State, step s = .next t → t.result ≠ s.result →
    ((s.schedule = [] ∨ s.schedule.head? = some .core) ∧ s.busy = true ∧ t.busy = false ∧ t.done = true) ∨
    ((∃ w, s.schedule.head? = some (.host (.write 0x000#18 32 w))) ∧ s.busy = false ∧ t.busy = false ∧
      t.done = true ∧ t.err = true) ∨
    s.schedule.head? = some .reset

/-! ## Classifier and ROM -/

/-- R129: the complete classification of all 256 byte values, with the normalized character; so, R130, a lowercase letter
has the class and the normalized character of its uppercase letter. -/
def Obligations.EveryByteIsClassified : Prop :=
  ∀ v : Byte,
    (v = 0x00#8 → classify v = .ignored) ∧
    (0x01#8 ≤ v → v ≤ 0x08#8 → classify v = .stop) ∧
    (v = 0x09#8 → classify v = .space) ∧
    (0x0A#8 ≤ v → v ≤ 0x1F#8 → classify v = .stop) ∧
    (v = 0x20#8 → classify v = .space) ∧
    (0x21#8 ≤ v → v ≤ 0x2F#8 → classify v = .ignored) ∧
    (0x30#8 ≤ v → v ≤ 0x39#8 → classify v = .number v) ∧
    (0x3A#8 ≤ v → v ≤ 0x40#8 → classify v = .ignored) ∧
    (0x41#8 ≤ v → v ≤ 0x5A#8 → classify v = .letter v) ∧
    (0x5B#8 ≤ v → v ≤ 0x60#8 → classify v = .ignored) ∧
    (0x61#8 ≤ v → v ≤ 0x7A#8 → classify v = .letter (v - 0x20#8)) ∧
    (0x7B#8 ≤ v → classify v = .ignored) ∧
    (0x61#8 ≤ v → v ≤ 0x7A#8 → classify v = classify (v - 0x20#8))

/-- R16: group `g` of a code is `cc[2g+1:2g]`; the group count is the least `n` with `cc >> (2n) = 0`; and the rule's three
examples. -/
def Obligations.GroupCountIsLeastShift : Prop :=
  (∀ (cc : Code) (g : Nat), groupOf cc g = (cc >>> (2 * g)).setWidth 2) ∧
  (∀ cc : Code, cc >>> (2 * ngroups cc) = 0#16 ∧ ∀ n, n < ngroups cc → cc >>> (2 * n) ≠ 0#16) ∧
  ngroups 0#16 = 0 ∧ ngroups 0x0039#16 = 3 ∧ ngroups 0xFFFF#16 = 8

/-- R102: the entry built from a pattern of 1 to 7 marks has a DIT or DAH for each mark in order, END_CHAR at group n, zeros
above, and `ngroups = n + 1`.  The check of a ROM entry accepts exactly the entries so built; and a block whose ROM
holds any other entry is refused. -/
def Obligations.RomEntryHoldsItsPattern : Prop :=
  (∀ pattern : List Mark, 1 ≤ pattern.length → pattern.length ≤ 7 →
    ngroups (romEntry pattern) = pattern.length + 1 ∧
    (∀ n m, pattern[n]? = some m → groupOf (romEntry pattern) n = if m then symDah else symDit) ∧
    groupOf (romEntry pattern) pattern.length = symEndChar ∧
    (∀ n, pattern.length < n → groupOf (romEntry pattern) n = symNul)) ∧
  (∀ cc : Code, romEntryShape cc = true ↔
    ∃ pattern : List Mark, 1 ≤ pattern.length ∧ pattern.length ≤ 7 ∧ cc = romEntry pattern) ∧
  (∀ (s : State) (cc : Code), (cc ∈ s.cfg.letterRom ∨ cc ∈ s.cfg.digitRom) →
    (∀ pattern : List Mark, 1 ≤ pattern.length → pattern.length ≤ 7 → cc ≠ romEntry pattern) →
    step s = .refused .badRom)

/-- R106, R128: under any legal configuration every byte resolves, to a code unless it is IGNORED: LOOKUP's index is
always in range, so ROM_INDEX cannot occur. -/
def Obligations.LookupIsAlwaysInRange : Prop :=
  ∀ (c : Config) (v : Byte), c.wellFormed = true →
    (classify v = .ignored → resolve c (classify v) = .ok none) ∧
    (classify v ≠ .ignored → ∃ cc, resolve c (classify v) = .ok (some cc)) ∧
    (∀ ch, classify v = .letter ch →
      ∃ cc, c.letterRom[ch.toNat - 0x41]? = some cc ∧ resolve c (classify v) = .ok (some cc)) ∧
    (∀ ch, classify v = .number ch →
      ∃ cc, c.digitRom[ch.toNat - 0x30]? = some cc ∧ resolve c (classify v) = .ok (some cc)) ∧
    (classify v = .space → resolve c (classify v) = .ok (some c.endWordCode)) ∧
    (classify v = .stop → resolve c (classify v) = .ok (some 0xFFFF#16))

/-! ## Encoder -/

/-- R66, R143, R144, R161: E_CLEAR writes 0x00 to BUF[j], with `j` below the latched capacity, and to no other byte; after
the last byte the main loop starts with all cursors zero, in E_SCAN if there is a TEXT byte to scan, else in E_TERM
(that E_TERM follows at once is log entry 8; `j` is log entry 6). -/
def Obligations.ClearStepZeroesOneByte : Prop :=
  ∀ s : State, s.eng = .eClear → s.j < s.cap.toNat →
    ∃ t, coreStep s = .next t ∧ t.buf.read s.j = some 0#8 ∧ (∀ a, a ≠ s.j → t.buf.read a = s.buf.read a) ∧
      t.text = s.text ∧ t.cap = s.cap ∧ t.tlen = s.tlen ∧ t.mode = s.mode ∧
      (s.j + 1 < s.cap.toNat → t.eng = .eClear ∧ t.j = s.j + 1) ∧
      (s.cap.toNat ≤ s.j + 1 →
        t.eng = (if 0 < s.tlen.toNat then .eScan else .eTerm) ∧ t.i = 0 ∧ t.p = 0 ∧ t.k = 0 ∧ t.halted = false)

/-- R88, R146, R147: APPEND_ALIGNED writes the record of a code (low byte; high byte if `cc > 0xFF`; 0x03 if the lowest
group is not END_CHAR) at BUF[p ..] and moves `p` past it, if the record ends at or below `limit`; otherwise nothing is
written and the answer is false. -/
def Obligations.AppendAlignedWritesRecordThatFits : Prop :=
  ∀ (cc : Code) (limit : Nat) (s : State), limit ≤ s.cap.toNat →
    ∀ rec : List Byte,
      rec = [cc.setWidth 8] ++ (if 0xFF < cc.toNat then [(cc >>> 8).setWidth 8] else []) ++
        (if cc.setWidth 2 ≠ 0b11#2 then [0x03#8] else []) →
      (limit < s.p + rec.length → appendAligned cc limit s = .ok (s, false)) ∧
      (s.p + rec.length ≤ limit →
        ∃ m, appendAligned cc limit s = .ok ({ s with p := s.p + rec.length, buf := m }, true) ∧
          (∀ n, n < rec.length → m.read (s.p + n) = rec[n]?) ∧
          (∀ a, a < s.p ∨ s.p + rec.length ≤ a → m.read a = s.buf.read a))

/-- R89, R153, R155, R67: APPEND_COMPACT ORs the groups of a code, and a last END_CHAR if the separator test says so, into
consecutive group positions from `k` on and moves `k` past them, if the run ends at or below `4*limit`; otherwise
nothing is written and the answer is false.  Bytes outside the run are unchanged, and so is every slot outside it. -/
def Obligations.AppendCompactDepositsRunThatFits : Prop :=
  ∀ (cc : Code) (limit : Nat) (s : State), limit ≤ s.cap.toNat → bufCleared s →
    ∀ gs : List Sym,
      gs = (List.range (ngroups cc)).map (groupOf cc) ++
        (if groupOf cc (if s.cfg.compactSepTest = .low then 0 else ngroups cc - 1) ≠ 0b11#2 then [0b11#2] else []) →
      (4 * limit < s.k + gs.length → appendCompact cc limit s = .ok (s, false)) ∧
      (s.k + gs.length ≤ 4 * limit →
        ∃ m, appendCompact cc limit s = .ok ({ s with k := s.k + gs.length, buf := m }, true) ∧
          (∀ g v, s.buf.read (g / 4) = some v →
            ∃ v', m.read (g / 4) = some v' ∧
              (∀ n, g = s.k + n → n < gs.length → some (slotOf v' (g % 4)) = (gs[n]?).map (slotOf v (g % 4) ||| ·)) ∧
              (g < s.k ∨ s.k + gs.length ≤ g → slotOf v' (g % 4) = slotOf v (g % 4))) ∧
          (∀ a, a < s.k / 4 ∨ (s.k + gs.length + 3) / 4 ≤ a → m.read a = s.buf.read a))

/-- R160 (an inference the spec marks as its own), first sentence: a step of the main loop writes no byte at or above the
effective capacity, so none of the last two bytes; it ends no command with E_OVERRUN and changes no TEXT byte.
Outside its own record or run it changes no byte at all. -/
def Obligations.MainLoopKeepsTheMargin : Prop :=
  ∀ s t : State, Inv s → s.eng = .eScan → coreStep s = .next t →
    t.busy = true ∧ (∀ a, s.cap.toNat - 2 ≤ a → t.buf.read a = s.buf.read a) ∧
    (s.mode = .aligned → ∀ a, a < s.p ∨ t.p ≤ a → t.buf.read a = s.buf.read a) ∧
    (s.mode = .compact → ∀ a, a < s.k / 4 ∨ (t.k + 3) / 4 ≤ a → t.buf.read a = s.buf.read a) ∧
    (∀ a, t.text.read a = s.text.read a)

/-- R160, R157: an ENCODE never ends with an error once it is accepted: the step that completes it (in any state of the
invariant) leaves ERR = 0 and a RESULT from 2 to the latched capacity. -/
def Obligations.AcceptedEncodeNeverFails : Prop :=
  ∀ s t : State, Inv s → s.encoding = true → coreStep s = .next t → t.busy = false →
    t.err = false ∧ t.done = true ∧ t.trunc = s.halted ∧ 2 ≤ t.result.toNat ∧ t.result.toNat ≤ s.cap.toNat

/-- R133, R145: an IGNORED byte causes no BUF write, moves no cursor but `s.i`, and cannot truncate. -/
def Obligations.IgnoredByteContributesNothing : Prop :=
  ∀ (s : State) (v : Byte), s.eng = .eScan → s.scanning = true → s.text.read s.i = some v → classify v = .ignored →
    coreStep s =
      .next { s with i := s.i + 1, eng := if s.i + 1 < s.tlen.toNat then .eScan else .eTerm }

/-- R150: the first byte whose code does not fit ends the main loop: nothing of it is written, the cursors stay, `s.halted`
is set and E_TERM follows. -/
def Obligations.TruncationIsFinal : Prop :=
  ∀ (s : State) (v : Byte) (cc : Code), s.eng = .eScan → s.scanning = true → s.text.read s.i = some v →
    resolve s.cfg (classify v) = .ok (some cc) →
    ((s.mode = .aligned ∧ s.cap.toNat - 2 < s.p + (record cc).length) ∨
     (s.mode = .compact ∧ 4 * (s.cap.toNat - 2) < s.k + (run s.cfg cc).length)) →
    coreStep s = .next { s with i := s.i + 1, cc := cc, halted := true, eng := .eTerm }

/-- R154 (an inference the spec marks as its own): while a Compact ENCODE appends, every group below `s.k` is non-NUL and
every group from `s.k` up to the capacity is NUL, so the free-slot scan and the group cursor agree; every step of the
core keeps this. -/
def Obligations.CompactCursorIsTheFirstFreeSlot : Prop :=
  ∀ s t : State, Inv s → CompactFrontier s → coreStep s = .next t → CompactFrontier t

/-- R140, R143 to R151, R157, R158: ENCODE_ALIGNED from its issue to its completion, for every legal configuration, text and
capacity: it is accepted; within `cap + tlen + 2` core steps (R161) it completes with DONE = 1, ERR = 0, TRUNC as R150
says, RESULT the length of the stream; BUF[0 .. cap-1] holds the records of the accepted characters that fit, then
END_STOP's, then zeros; every BUF byte at or above the capacity and all of TEXT are unchanged. -/
def Obligations.EncodeAlignedProducesTheStream : Prop :=
  ∀ (s : State) (text : List Byte), ReadyToEncode s text →
    ∃ t u, exec .encodeAligned s = .next t ∧ t.busy = true ∧ coreRun (encodeSteps s) t = .next u ∧
      u.busy = false ∧ u.done = true ∧ u.err = false ∧
      u.trunc = truncated s.cfg .aligned s.capacity.toNat text ∧
      u.result = BitVec.ofNat 32 (streamLength s.cfg .aligned s.capacity.toNat text) ∧
      2 ≤ u.result.toNat ∧ u.result.toNat ≤ s.capacity.toNat ∧
      (∀ a, a < s.capacity.toNat → u.buf.read a = some (streamByte s.cfg .aligned s.capacity.toNat text a)) ∧
      (∀ a, s.capacity.toNat ≤ a → u.buf.read a = s.buf.read a) ∧
      (∀ a, u.text.read a = s.text.read a)

/-- The same for ENCODE_COMPACT: BUF[0 .. cap-1] holds the packed groups of the runs that fit, then END_STOP's, with NUL in
every slot after them; RESULT is the number of bytes that hold a group. -/
def Obligations.EncodeCompactProducesTheStream : Prop :=
  ∀ (s : State) (text : List Byte), ReadyToEncode s text →
    ∃ t u, exec .encodeCompact s = .next t ∧ t.busy = true ∧ coreRun (encodeSteps s) t = .next u ∧
      u.busy = false ∧ u.done = true ∧ u.err = false ∧
      u.trunc = truncated s.cfg .compact s.capacity.toNat text ∧
      u.result = BitVec.ofNat 32 (streamLength s.cfg .compact s.capacity.toNat text) ∧
      2 ≤ u.result.toNat ∧ u.result.toNat ≤ s.capacity.toNat ∧
      (∀ a, a < s.capacity.toNat → u.buf.read a = some (streamByte s.cfg .compact s.capacity.toNat text a)) ∧
      (∀ a, s.capacity.toNat ≤ a → u.buf.read a = s.buf.read a) ∧
      (∀ a, u.text.read a = s.text.read a)

/-- R162 (an inference the spec marks as its own): two ready blocks that differ only in the text, where the texts have the
same non-IGNORED bytes, complete an ENCODE (in either mode) with the same RESULT, the same TRUNC and the same BUF. -/
def Obligations.IgnoredBytesAddNothing : Prop :=
  ∀ (s s' : State) (text text' : List Byte) (i : Instr) (t t' u u' : State),
    ReadyToEncode s text → ReadyToEncode s' text' →
    s' = { s with text := s'.text, textLen := s'.textLen } →
    text.filter (fun v => classify v != .ignored) = text'.filter (fun v => classify v != .ignored) →
    (i = .encodeAligned ∨ i = .encodeCompact) →
    exec i s = .next t → coreRun (encodeSteps s) t = .next u →
    exec i s' = .next t' → coreRun (encodeSteps s') t' = .next u' →
    u.result = u'.result ∧ u.trunc = u'.trunc ∧ ∀ a, u.buf.read a = u'.buf.read a

/-- R276 (an inference the spec marks as its own): with the default ROM, N non-IGNORED bytes and a capacity of at least
3N + 2, an ENCODE_ALIGNED is not truncated; with at least 2N + 2 and COMPACT_SEP_TEST = LOW, an ENCODE_COMPACT is not.
The other parameters have any legal value. -/
def Obligations.SizedCapacityAvoidsTruncation : Prop :=
  ∀ (s : State) (text : List Byte), ReadyToEncode s text →
    s.cfg.letterRom = defaultLetterRom → s.cfg.digitRom = defaultDigitRom →
    ∀ n, n = (text.filter fun v => classify v != .ignored).length →
      (3 * n + 2 ≤ s.capacity.toNat →
        ∃ t u, exec .encodeAligned s = .next t ∧ coreRun (encodeSteps s) t = .next u ∧ u.busy = false ∧
          u.trunc = false) ∧
      (s.cfg.compactSepTest = .low → 2 * n + 2 ≤ s.capacity.toNat →
        ∃ t u, exec .encodeCompact s = .next t ∧ coreRun (encodeSteps s) t = .next u ∧ u.busy = false ∧
          u.trunc = false)

/-- R163 (b) (a property the spec's authors checked and did not prove): with the default parameters, if the Aligned encode of
a text is not truncated, the Compact encode at the same capacity is not either, and its length is at most the Aligned
length. -/
def Obligations.CompactIsNotLongerThanAligned : Prop :=
  ∀ (s : State) (text : List Byte) (ta ua tc uc : State), ReadyToEncode s text → s.cfg = defaultConfig →
    exec .encodeAligned s = .next ta → coreRun (encodeSteps s) ta = .next ua →
    exec .encodeCompact s = .next tc → coreRun (encodeSteps s) tc = .next uc →
    ua.trunc = false → uc.trunc = false ∧ uc.result.toNat ≤ ua.result.toNat

/-- R163 (c) (a property the spec's authors checked and did not prove): with the default parameters, if neither encode of a
text is truncated, the bytes each leaves in BUF dispatch to the same events. -/
def Obligations.BothLayoutsDispatchAlike : Prop :=
  ∀ (s : State) (text : List Byte) (ta ua tc uc : State) (bytesA bytesC : List Byte) (base : Byte),
    ReadyToEncode s text → s.cfg = defaultConfig →
    exec .encodeAligned s = .next ta → coreRun (encodeSteps s) ta = .next ua →
    exec .encodeCompact s = .next tc → coreRun (encodeSteps s) tc = .next uc →
    ua.trunc = false → uc.trunc = false →
    bytesA.length = ua.result.toNat → holdsBuf ua bytesA → bytesC.length = uc.result.toNat → holdsBuf uc bytesC →
    eventsOf s.cfg base bytesA = eventsOf s.cfg base bytesC

/-- R159, R200 (inferences the spec marks as its own): whatever the text, mode, capacity and legal configuration, the stream
an ENCODE leaves ends with END_STOP's eight END_CHAR groups and at most 3 NUL slots, so its last event is a Silence of
class STOP. -/
def Obligations.EncodedStreamEndsWithStop : Prop :=
  ∀ (s : State) (text : List Byte) (i : Instr) (t u : State) (bytes : List Byte) (base : Byte),
    ReadyToEncode s text → (i = .encodeAligned ∨ i = .encodeCompact) →
    exec i s = .next t → coreRun (encodeSteps s) t = .next u →
    bytes.length = u.result.toNat → holdsBuf u bytes →
    (∃ front r, r ≤ 3 ∧
      bytes.flatMap slotsOf = front ++ List.replicate 8 symEndChar ++ List.replicate r symNul) ∧
    (eventsOf s.cfg base bytes).getLast? = some (silenceEvent s.cfg base .stop)

/-! ## Dispatcher and event port -/

/-- R198, R195: the spacing class of every silence count and the default code of every class, and that saturating the count
at 15 changes no class. -/
def Obligations.SpacingClassOfEveryCount : Prop :=
  ∀ n : Nat,
    spaceClass n = (if n = 0 then .none else if n = 1 then .intra else if n ≤ 3 then .char else if n ≤ 7 then .word
      else .stop) ∧
    spaceClass (min n 15) = spaceClass n ∧
    (∀ cnt : BitVec 4, (countEndChar cnt).toNat = min (cnt.toNat + 1) 15) ∧
    spaceCode defaultConfig .none = 0x0#4 ∧ spaceCode defaultConfig .intra = 0x1#4 ∧
    spaceCode defaultConfig .char = 0x2#4 ∧ spaceCode defaultConfig .word = 0x4#4 ∧
    spaceCode defaultConfig .stop = 0x8#4

/-- R194 to R197, R199 to R201, R203, R209: one slot visited.  END_CHAR counts (saturating at 15) and emits nothing; NUL does
nothing; DIT or DAH queues the pending silence (if the count is not 0), the sound with the bare base and
Silence(INTRA), and zeroes the count.  After the last slot of the walk the pending silence, if any, is queued (that this
is in the step of the last slot is log entry 10).  Then the engine emits what is queued, or walks on, or, after the last
slot, is finished.  The byte is read at slot 0 and held in `b` for the others (log entry 6). -/
def Obligations.WalkActsOnTheSymbol : Prop :=
  ∀ (s t : State) (v : Byte), s.eng = .dWalk → s.q = [] → s.bi < s.dlen.toNat →
    (s.slot = 0 → s.buf.read s.bi = some v) → (s.slot ≠ 0 → s.b = v) → coreStep s = .next t →
    ∀ last : Bool, last = decide (4 * s.bi + s.slot.val + 1 = 4 * s.dlen.toNat) →
    4 * t.bi + t.slot.val = 4 * s.bi + s.slot.val + 1 ∧ t.b = v ∧ t.buf = s.buf ∧
    (slotOf v s.slot.val = 0b11#2 → t.cnt.toNat = min (s.cnt.toNat + 1) 15 ∧
      t.q = if last then [⟨.silence, s.base ||| (spaceCode s.cfg (spaceClass t.cnt.toNat)).setWidth 8⟩] else []) ∧
    (slotOf v s.slot.val = 0b00#2 → t.cnt = s.cnt ∧
      t.q = if last ∧ s.cnt ≠ 0#4 then
          [⟨.silence, s.base ||| (spaceCode s.cfg (spaceClass s.cnt.toNat)).setWidth 8⟩] else []) ∧
    (slotOf v s.slot.val = 0b01#2 ∨ slotOf v s.slot.val = 0b10#2 →
      t.cnt = 0#4 ∧
      t.q =
        (if s.cnt = 0#4 then []
         else [⟨.silence, s.base ||| (spaceCode s.cfg (spaceClass s.cnt.toNat)).setWidth 8⟩]) ++
        [⟨if slotOf v s.slot.val = 0b01#2 then .dit else .dah, s.base⟩,
         ⟨.silence, s.base ||| s.cfg.spaceIntra.setWidth 8⟩]) ∧
    t.eng = if t.q ≠ [] then .dEmit else if last then .dFin else .dWalk

/-- R190 to R203, R205: DISPATCH from its issue to its completion, for every legal configuration and buffer, with a
collaborator that accepts each event as it is presented: it is accepted and completes with RESULT = 0, DONE = 1, ERR = 0,
TRUNC = 0; the events delivered are exactly those of the bytes walked, in order (the count of `eventsOf` is unbounded, so
saturation changes nothing, R195); both memories are unchanged.  The bound of 16 steps a byte and 3 more is the model's
decomposition (at most one walk step and three acceptances a slot, log entry 10), not the spec's. -/
def Obligations.DispatchDeliversTheEvents : Prop :=
  ∀ (s : State) (bytes : List Byte), ReadyToDispatch s bytes →
    ∃ t u, exec .dispatch s = .next t ∧ t.busy = true ∧ servedRun (16 * bytes.length + 3) t = .next u ∧
      u.busy = false ∧ u.done = true ∧ u.err = false ∧ u.trunc = false ∧ u.result = 0#32 ∧
      u.delivered = s.delivered ++ eventsOf s.cfg (s.flags &&& 0xF0#8) bytes ∧
      (∀ a, u.buf.read a = s.buf.read a) ∧ (∀ a, u.text.read a = s.text.read a)

/-- R212 "The events are delivered exactly in the order of rule R190, each exactly once": under ANY schedule.  While a
DISPATCH of `bytes` runs, every step other than a reset keeps the delivered events followed by those pending; and where
the step completes it, nothing is pending. -/
def Obligations.EventsAreDeliveredInOrderOnce : Prop :=
  ∀ (s t : State) (bytes : List Byte), Inv s → s.dispatching = true → s.dlen.toNat = bytes.length → holdsBuf s bytes →
    step s = .next t → s.schedule.head? ≠ some .reset →
    t.delivered ++ pendingEvents t bytes = s.delivered ++ pendingEvents s bytes ∧
    (t.dispatching = true → t.dlen = s.dlen ∧ t.base = s.base ∧ holdsBuf t bytes) ∧
    (t.dispatching = false → t.busy = false ∧ t.done = true ∧ pendingEvents t bytes = [])

/-- R43, R212: while EV_VALID = 1, no agent but the collaborator (or a reset) changes EV_VALID, EV_KIND, EV_FLAGS or what has
been delivered, and the core waits: its step changes nothing. -/
def Obligations.PresentedEventHoldsUntilAccepted : Prop :=
  ∀ (s t : State) (a : Action), Inv s → s.evValid = true → a ≠ .accept → a ≠ .reset → act a s = .next t →
    t.evValid = true ∧ t.evKind = s.evKind ∧ t.evFlags = s.evFlags ∧ t.delivered = s.delivered ∧
    t.busy = true ∧ (a = .core → t = s)

/-- R43, R92, R202, R209, R210, R212, R213: with EV_VALID = 0 EV_READY is ignored.  With EV_VALID = 1, EV_KIND is not 00, and
an acceptance delivers exactly the event on the port, pops it, and changes nothing but the queue, the engine state and
the port: no register, no byte of TEXT or BUF.  Where events remain the next one is on the port at once (log entry 10);
where none remains EV_VALID is 0, EV_KIND and EV_FLAGS are free values (log entry 5), and the walk goes on or, with
every slot visited and so the last flush pushed (log entry 10), is over. -/
def Obligations.AcceptanceDeliversThePortsEvent : Prop :=
  ∀ s : State, Inv s →
    (s.evValid = false → act .accept s = .next s) ∧
    (s.evValid = true → s.evKind ≠ 0b00#2 ∧
      ∃ t e, act .accept s = .next t ∧ s.q = e :: t.q ∧ e.flags = s.evFlags ∧
        e.kind = (if s.evKind = 0b01#2 then .dit else if s.evKind = 0b10#2 then .dah else .silence) ∧
        t = { s with delivered := s.delivered ++ [e], q := t.q, eng := t.eng, evValid := t.evValid,
                     evKind := t.evKind, evFlags := t.evFlags, freeIdx := t.freeIdx } ∧
        (∀ e' rest, t.q = e' :: rest →
          t.eng = .dEmit ∧ t.evValid = true ∧ t.evKind = e'.kind.code ∧ t.evFlags = e'.flags ∧ t.freeIdx = s.freeIdx) ∧
        (t.q = [] →
          t.eng = (if s.bi < s.dlen.toNat then .dWalk else .dFin) ∧ t.evValid = false ∧
          t.evKind = Config.freeEvKind s.freeIdx ∧ t.evFlags = Config.freeEvFlags s.freeIdx ∧
          t.freeIdx = s.freeIdx + 1))

/-- R206 (an inference the spec marks as its own): every Dit or Dah is followed at once by Silence(INTRA), and the sounds,
in order, are the DIT and DAH symbols of the bytes in slot order. -/
def Obligations.SoundsAreTheSymbolsInOrder : Prop :=
  ∀ (c : Config) (base : Byte) (bytes : List Byte),
    (∀ n e, (eventsOf c base bytes)[n]? = some e → e.kind ≠ .silence →
      (eventsOf c base bytes)[n + 1]? = some (silenceEvent c base .intra)) ∧
    ((eventsOf c base bytes).filter fun e => e.kind != .silence) =
      ((bytes.flatMap slotsOf).filter fun sym => sym == 0b01#2 || sym == 0b10#2).map fun sym =>
        ⟨if sym = 0b01#2 then .dit else .dah, base⟩

/-- R204 "NO_DELAY does not change which events are emitted, their order or their classes", R214: two states that differ only
in the caller's flags take the same step under the same schedule, whatever it is: both go on, to states that again differ
only in the flags, or both fault alike, or both are refused alike.  So do the runs from two blocks that differ only in
FLAGS, step for step, with any host and any collaborator. -/
def Obligations.CallerFlagsChangeNoTransition : Prop :=
  (∀ (s : State) (f : Byte), SameButFlags s { s with flags := f }) ∧
  (∀ s s' : State, SameButFlags s s' →
    (∃ t t', step s = .next t ∧ step s' = .next t' ∧ SameButFlags t t') ∨
    (∃ e, step s = .fault e ∧ step s' = .fault e) ∨
    (∃ r, step s = .refused r ∧ step s' = .refused r))

/-! ## The core's frame, and unwritten bytes -/

/-- R36, R79, R107, R202, R246: what no core step changes, in any state: the configuration with its ROM, the control
registers, TEXT, the latched operands, what the host has read and what has been delivered; BUF at and above the latched
capacity; and all of BUF unless an ENCODE runs. -/
def Obligations.CoreStepFrame : Prop :=
  ∀ s t : State, coreStep s = .next t →
    t.cfg = s.cfg ∧ t.irqEn = s.irqEn ∧ t.textLen = s.textLen ∧ t.capacity = s.capacity ∧ t.length = s.length ∧
    t.flags = s.flags ∧ (∀ a, t.text.read a = s.text.read a) ∧ t.op = s.op ∧ t.tlen = s.tlen ∧ t.cap = s.cap ∧
    t.dlen = s.dlen ∧ t.base = s.base ∧ t.mode = s.mode ∧ t.schedule = s.schedule ∧ t.reads = s.reads ∧
    t.delivered = s.delivered ∧ t.freeIdx = s.freeIdx ∧
    (∀ a, s.cap.toNat ≤ a → t.buf.read a = s.buf.read a) ∧
    (s.encoding = false → ∀ a, t.buf.read a = s.buf.read a)

/-- R37: a core read of a byte that nothing has written is `fault Protocol(UNWRITTEN_READ)`: of TEXT by ENCODE, of BUF by
DISPATCH. -/
def Obligations.CoreReadOfUnwrittenByteFaults : Prop :=
  (∀ s : State, s.eng = .eScan → s.scanning = true → s.text.read s.i = none → coreStep s = .fault .unwrittenRead) ∧
  (∀ s : State, s.eng = .dWalk → s.bi < s.dlen.toNat → s.slot = 0 → s.buf.read s.bi = none →
    coreStep s = .fault .unwrittenRead)

/-! ## Host access -/

/-- R64: a register access that is not 32 bits wide at a multiple of 4, and a window access that is not 8 bits wide, is
`fault Protocol(BAD_ACCESS)`, read or write, in any state (with BUSY = 1, at reserved offsets of the register window and
at window addresses beyond the memory's size too: log entry 9). -/
def Obligations.WrongWidthOrAlignmentFaults : Prop :=
  ∀ (s : State) (addr : BitVec 18) (width : Nat) (d : Word),
    (addr.toNat < 0x100 ∧ (width ≠ 32 ∨ addr.toNat % 4 ≠ 0)) ∨
    (0x10000 ≤ addr.toNat ∧ addr.toNat < 0x30000 ∧ width ≠ 8) →
    act (.host (.read addr width)) s = .fault .badAccess ∧ act (.host (.write addr width d)) s = .fault .badAccess

/-- R73, R278: an 8-bit access to the TEXT or BUF window while BUSY = 1 is `fault Protocol(WINDOW_WHILE_BUSY)` (at or
beyond the memory's size too: log entry 9). -/
def Obligations.WindowAccessWhileBusyFaults : Prop :=
  ∀ (s : State) (addr : BitVec 18) (d : Word), s.busy = true → 0x10000 ≤ addr.toNat → addr.toNat < 0x30000 →
    act (.host (.read addr 8)) s = .fault .windowWhileBusy ∧ act (.host (.write addr 8 d)) s = .fault .windowWhileBusy

/-- R61: an access to a reserved address is harmless: a read returns 0 and a write is ignored.  Reserved are the addresses
outside the three regions (at any width: log entry 9), the offsets 0x020 to 0x0FF of the register window, and, while the
block is idle, window addresses at or beyond the memory's size. -/
def Obligations.ReservedAddressIsHarmless : Prop :=
  ∀ (s : State) (addr : BitVec 18) (width : Nat) (d : Word),
    ((0x100 ≤ addr.toNat ∧ addr.toNat < 0x10000) ∨ 0x30000 ≤ addr.toNat ∨
     (0x20 ≤ addr.toNat ∧ addr.toNat < 0x100 ∧ addr.toNat % 4 = 0 ∧ width = 32) ∨
     (0x10000 + s.cfg.textSize ≤ addr.toNat ∧ addr.toNat < 0x20000 ∧ width = 8 ∧ s.busy = false) ∨
     (0x20000 + s.cfg.bufSize ≤ addr.toNat ∧ addr.toNat < 0x30000 ∧ width = 8 ∧ s.busy = false)) →
    act (.host (.read addr width)) s = .next { s with reads := s.reads ++ [0#32] } ∧
    act (.host (.write addr width d)) s = .next s

/-- R26, R28 to R34, R281: a host write to a register other than CMD, in any state, idle or busy, changes exactly the
writable bits of that register: CTRL bit 0, the low ADDR_W bits of the operand registers, FLAGS bits 7:0; writing 1 to
STATUS.DONE clears it and writing 0 does nothing; RESULT is read only. -/
def Obligations.RegisterWriteChangesItsFieldOnly : Prop :=
  ∀ (s : State) (d : Word),
    act (.host (wr .status d)) s = .next { s with done := s.done && !d.getLsbD 1 } ∧
    act (.host (wr .ctrl d)) s = .next { s with irqEn := d.getLsbD 0 } ∧
    act (.host (wr .textLen d)) s = .next { s with textLen := BitVec.ofNat 16 (d.toNat % 2 ^ s.cfg.addrW) } ∧
    act (.host (wr .capacity d)) s = .next { s with capacity := BitVec.ofNat 16 (d.toNat % 2 ^ s.cfg.addrW) } ∧
    act (.host (wr .length d)) s = .next { s with length := BitVec.ofNat 16 (d.toNat % 2 ^ s.cfg.addrW) } ∧
    act (.host (wr .flags d)) s = .next { s with flags := d.setWidth 8 } ∧
    act (.host (wr .result d)) s = .next s

/-- R26 to R34: a host read of a register returns its value with reserved bits 0 (CMD returns 0) and has no side effect, idle
or busy; and what was written to CTRL, TEXT_LEN, CAPACITY, LENGTH or FLAGS reads back in its writable bits. -/
def Obligations.RegisterReadsBackWhatWasWritten : Prop :=
  (∀ (s : State) (r : HostReg), act (.host (rd r)) s = .next { s with reads := s.reads ++ [readReg s r] }) ∧
  (∀ s : State, readReg s .cmd = 0#32 ∧ readReg s .result = s.result) ∧
  (∀ (s t : State) (d : Word), s.cfg.wellFormed = true →
    (act (.host (wr .ctrl d)) s = .next t → readReg t .ctrl = d &&& 1#32) ∧
    (act (.host (wr .flags d)) s = .next t → readReg t .flags = d &&& 0xFF#32) ∧
    (act (.host (wr .textLen d)) s = .next t → (readReg t .textLen).toNat = d.toNat % 2 ^ s.cfg.addrW) ∧
    (act (.host (wr .capacity d)) s = .next t → (readReg t .capacity).toNat = d.toNat % 2 ^ s.cfg.addrW) ∧
    (act (.host (wr .length d)) s = .next t → (readReg t .length).toNat = d.toNat % 2 ^ s.cfg.addrW))

/-- R60, R62, R63, R68: with BUSY = 0, a host write of a byte within a window's memory gives that byte its value and changes
nothing else: no other byte of either memory, no register, no STATUS bit, not the engine or the port; and a host read of a
written byte returns it and changes nothing but the list of what host reads have returned (the model's own, log entry
2).  So a byte written is what is read there next. -/
def Obligations.WindowReadsWhatWasWritten : Prop :=
  ∀ (s : State) (a : Nat) (v : Byte), s.cfg.wellFormed = true → s.busy = false →
    (a < s.cfg.textSize →
      (∃ m, act (.host (wbText a v)) s = .next { s with text := m } ∧ m.read a = some v ∧
        (∀ a', a' ≠ a → m.read a' = s.text.read a') ∧
        act (.host (rbText a)) { s with text := m } =
          .next { s with text := m, reads := s.reads ++ [v.setWidth 32] }) ∧
      (s.text.read a = some v → act (.host (rbText a)) s = .next { s with reads := s.reads ++ [v.setWidth 32] })) ∧
    (a < s.cfg.bufSize →
      (∃ m, act (.host (wbBuf a v)) s = .next { s with buf := m } ∧ m.read a = some v ∧
        (∀ a', a' ≠ a → m.read a' = s.buf.read a') ∧
        act (.host (rbBuf a)) { s with buf := m } =
          .next { s with buf := m, reads := s.reads ++ [v.setWidth 32] }) ∧
      (s.buf.read a = some v → act (.host (rbBuf a)) s = .next { s with reads := s.reads ++ [v.setWidth 32] }))

/-- R37: "A host read of such a byte through a window is not a fault: it returns an unspecified byte": of TEXT or of BUF, the
next free value (log entry 4), whatever it is; the byte stays unwritten. -/
def Obligations.HostReadOfUnwrittenByteIsFree : Prop :=
  ∀ (s : State) (a : Nat), s.cfg.wellFormed = true → s.busy = false →
    (a < s.cfg.textSize → s.text.read a = none →
      act (.host (rbText a)) s =
        .next { s with reads := s.reads ++ [(Config.freeByte s.freeIdx).setWidth 32], freeIdx := s.freeIdx + 1 }) ∧
    (a < s.cfg.bufSize → s.buf.read a = none →
      act (.host (rbBuf a)) s =
        .next { s with reads := s.reads ++ [(Config.freeByte s.freeIdx).setWidth 32], freeIdx := s.freeIdx + 1 })

/-! ## Reset and the invariant -/

/-- R271, R46: every item of state right after power-on, under every configuration, and both memories unwritten;
`State.reset` is the power-on state of the default configuration. -/
def Obligations.PowerOnState : Prop :=
  State.reset = State.powerOn defaultConfig ∧ ∀ c : Config,
  let s := State.powerOn c
  statusWord s = 0#32 ∧ s.irqEn = false ∧ s.textLen = 0#16 ∧ s.capacity = 0#16 ∧ s.length = 0#16 ∧ s.flags = 0#8 ∧
  s.result = 0#32 ∧ s.eng = .idle ∧ s.op = 0#2 ∧ s.tlen = 0#16 ∧ s.cap = 0#16 ∧ s.dlen = 0#16 ∧ s.base = 0#8 ∧
  s.mode = .aligned ∧ s.i = 0 ∧ s.p = 0 ∧ s.k = 0 ∧ s.cc = 0#16 ∧ s.halted = false ∧ s.bi = 0 ∧ s.slot = 0 ∧
  s.cnt = 0#4 ∧ s.q = [] ∧ s.evValid = false ∧ s.evKind = 0#2 ∧ s.evFlags = 0#8 ∧ s.irq = false ∧ s.cfg = c ∧
  (∀ a, s.text.read a = none) ∧ (∀ a, s.buf.read a = none)

/-- R270: reset asserted in any state.  Every register and datapath item takes its value of R46 (so a running command has no
completion: DONE = 0, RESULT = 0, no IRQ; a presented event is withdrawn and the queue discarded); events delivered stay
delivered; TEXT is unchanged; BUF is unchanged, but for the bytes below the latched capacity of an abandoned ENCODE,
which become unwritten. -/
def Obligations.ResetInAnyState : Prop :=
  ∀ s : State, ∃ t, act .reset s = .next t ∧
    statusWord t = 0#32 ∧ t.irqEn = false ∧ t.textLen = 0#16 ∧ t.capacity = 0#16 ∧ t.length = 0#16 ∧ t.flags = 0#8 ∧
    t.result = 0#32 ∧ t.eng = .idle ∧ t.op = 0#2 ∧ t.tlen = 0#16 ∧ t.cap = 0#16 ∧ t.dlen = 0#16 ∧ t.base = 0#8 ∧
    t.mode = .aligned ∧ t.i = 0 ∧ t.p = 0 ∧ t.k = 0 ∧ t.cc = 0#16 ∧ t.halted = false ∧ t.bi = 0 ∧ t.slot = 0 ∧
    t.cnt = 0#4 ∧ t.q = [] ∧ t.evValid = false ∧ t.evKind = 0#2 ∧ t.evFlags = 0#8 ∧ t.irq = false ∧
    t.delivered = s.delivered ∧ t.cfg = s.cfg ∧
    (∀ a, t.text.read a = s.text.read a) ∧
    (s.encoding = false → ∀ a, t.buf.read a = s.buf.read a) ∧
    (s.encoding = true → ∀ a, t.buf.read a = if a < s.cap.toNat then none else s.buf.read a)

/-- R107: the configuration, the ROM in it, never changes. -/
def Obligations.RomNeverChanges : Prop :=
  ∀ s t : State, step s = .next t → t.cfg = s.cfg

/-- The invariant holds after power-on reset. -/
def Obligations.InvariantHoldsAfterReset : Prop := Inv State.reset

/-- The invariant is kept by every step, whatever the schedule: legal parameters; both memories canonical and within their
sizes; operand registers of ADDR_W bits; `s.base` with no low nibble; BUSY excludes DONE, ERR and TRUNC (R241, R279);
ERR is the sign of RESULT (R28); EV_VALID exactly in D_EMIT, with the head of a queue of at most 3 on the port (R42, R43,
R209); and in each engine state the operands checked and the cursors in range (R141, R147, R155, R160, R209). -/
def Obligations.EveryStepKeepsTheInvariant : Prop :=
  ∀ s t : State, Inv s → step s = .next t → Inv t

/-- R250, R128, R37, R64, R73: in a state of the invariant a step is never refused, and a fault has its cause: BAD_ACCESS and
WINDOW_WHILE_BUSY only by a host access (the latter only while BUSY = 1), UNWRITTEN_READ only by the core's read of a TEXT
byte in E_SCAN or a BUF byte in D_WALK that nothing has written; ROM_INDEX never. -/
def Obligations.EveryFaultHasItsCause : Prop :=
  ∀ s : State, Inv s →
    (∀ r, step s ≠ .refused r) ∧ step s ≠ .fault .romIndex ∧
    (step s = .fault .badAccess → ∃ op, s.schedule.head? = some (.host op)) ∧
    (step s = .fault .windowWhileBusy → s.busy = true ∧ ∃ op, s.schedule.head? = some (.host op)) ∧
    (step s = .fault .unwrittenRead →
      (s.schedule = [] ∨ s.schedule.head? = some .core) ∧
      ((s.eng = .eScan ∧ s.text.read s.i = none) ∨ (s.eng = .dWalk ∧ s.slot = 0 ∧ s.buf.read s.bi = none)))
end

