-- ==== Sys2Proof/Laws/Memory.lean ====
section
/-! SUPPORT. The laws of the byte stores: read after write, read elsewhere, forget, and the canonical form kept. -/

namespace Sys2Proof.Machine

@[simp] theorem Memory.read_nil (a : Nat) : Memory.read [] a = none := rfl

@[simp] theorem Memory.read_write_same (m : Memory) (a : Nat) (v : Byte) : (m.write a v).read a = some v := by
  induction m with
  | nil => simp [Memory.write, Memory.read]
  | cons c m ih =>
    simp only [Memory.write]
    split
    · simp [Memory.read]
    · split
      · simp [Memory.read]
      · next h => simpa [Memory.read, Ne.symm h] using ih

theorem Memory.read_write_other (m : Memory) {a a' : Nat} (v : Byte) (h : a' ≠ a) :
    (m.write a v).read a' = m.read a' := by
  induction m with
  | nil => simp [Memory.write, Memory.read, Ne.symm h]
  | cons c m ih =>
    simp only [Memory.write]
    split
    · simp [Memory.read, Ne.symm h]
    · split
      · next heq => simp [Memory.read, Ne.symm h, ← heq]
      · simp [Memory.read, ih]

theorem Memory.read_write (m : Memory) (a a' : Nat) (v : Byte) :
    (m.write a v).read a' = if a' = a then some v else m.read a' := by
  split
  · next h => subst h; exact Memory.read_write_same m a' v
  · next h => exact Memory.read_write_other m v h

theorem Memory.read_forget (m : Memory) (n a : Nat) :
    (m.forget n).read a = if a < n then none else m.read a := by
  induction m with
  | nil => simp [Memory.forget]
  | cons c m ih =>
    simp only [Memory.forget] at ih ⊢
    by_cases hc : n ≤ c.1
    · simp only [List.filter_cons, hc, decide_true, if_true, Memory.read, ih]
      by_cases hca : c.1 = a
      · have : ¬ a < n := by omega
        simp [hca, this]
      · simp [hca]
    · simp only [List.filter_cons, hc, decide_false, Memory.read]
      rw [if_neg (by simp), ih]
      by_cases han : a < n
      · simp [han]
      · have : c.1 ≠ a := by omega
        simp [han, this]

theorem Memory.risesFrom_mono {lo lo' : Nat} {m : Memory} (hle : lo' ≤ lo) (h : Memory.risesFrom lo m = true) :
    Memory.risesFrom lo' m = true := by
  cases m with
  | nil => rfl
  | cons c m =>
    simp only [Memory.risesFrom, Bool.and_eq_true, decide_eq_true_eq] at h ⊢
    exact ⟨by omega, h.2⟩

theorem Memory.risesFrom_write {lo : Nat} {m : Memory} {a : Nat} (v : Byte) (ha : lo ≤ a)
    (h : Memory.risesFrom lo m = true) : Memory.risesFrom lo (m.write a v) = true := by
  induction m generalizing lo with
  | nil => simp [Memory.write, Memory.risesFrom, ha]
  | cons c m ih =>
    simp only [Memory.risesFrom, Bool.and_eq_true, decide_eq_true_eq] at h
    simp only [Memory.write]
    split
    · simp only [Memory.risesFrom, Bool.and_eq_true, decide_eq_true_eq]
      exact ⟨ha, by omega, h.2⟩
    · split
      · next heq =>
        simp only [Memory.risesFrom, Bool.and_eq_true, decide_eq_true_eq]
        exact ⟨ha, heq ▸ h.2⟩
      · simp only [Memory.risesFrom, Bool.and_eq_true, decide_eq_true_eq]
        exact ⟨h.1, ih (by omega) h.2⟩

/-- A write keeps the canonical form. -/
theorem Memory.wf_write {m : Memory} (a : Nat) (v : Byte) (h : m.wf = true) : (m.write a v).wf = true :=
  Memory.risesFrom_write v (Nat.zero_le a) h

theorem Memory.risesFrom_forget {lo : Nat} {m : Memory} (n : Nat) (h : Memory.risesFrom lo m = true) :
    Memory.risesFrom lo (m.forget n) = true := by
  induction m generalizing lo with
  | nil => rfl
  | cons c m ih =>
    simp only [Memory.risesFrom, Bool.and_eq_true, decide_eq_true_eq] at h
    have ih' := ih h.2
    simp only [Memory.forget, List.filter_cons] at ih' ⊢
    split
    · simp only [Memory.risesFrom, Bool.and_eq_true, decide_eq_true_eq]
      exact ⟨h.1, ih'⟩
    · exact Memory.risesFrom_mono (by omega) ih'

/-- Forgetting keeps the canonical form. -/
theorem Memory.wf_forget {m : Memory} (n : Nat) (h : m.wf = true) : (m.forget n).wf = true :=
  Memory.risesFrom_forget n h

theorem Memory.wf_nil : Memory.wf [] = true := rfl

/-- Every address of a written memory is the one written or was there before. -/
theorem Memory.mem_write {m : Memory} {a : Nat} {v : Byte} {c : Host.Cell} (h : c ∈ m.write a v) :
    c = (a, v) ∨ c ∈ m := by
  induction m with
  | nil => simpa [Memory.write] using h
  | cons d m ih =>
    simp only [Memory.write] at h
    split at h
    · simpa using h
    · split at h
      · simp only [List.mem_cons] at h ⊢
        exact h.imp id Or.inr
      · simp only [List.mem_cons] at h ⊢
        rcases h with h | h
        · exact Or.inr (Or.inl h)
        · exact (ih h).imp id Or.inr

theorem Memory.mem_forget {m : Memory} {n : Nat} {c : Host.Cell} (h : c ∈ m.forget n) : c ∈ m :=
  (List.mem_filter.mp h).1

/-- A canonical memory has nothing below its first address. -/
theorem Memory.read_of_lt {lo : Nat} {m : Memory} (h : Memory.risesFrom lo m = true) {a : Nat} (ha : a < lo) :
    m.read a = none := by
  induction m generalizing lo with
  | nil => rfl
  | cons c m ih =>
    simp only [Memory.risesFrom, Bool.and_eq_true, decide_eq_true_eq] at h
    have : c.1 ≠ a := by omega
    simp only [Memory.read, this, if_false]
    exact ih h.2 (by omega)

theorem Memory.eq_of_read_eq_from {lo : Nat} {m m' : Memory} (h : Memory.risesFrom lo m = true)
    (h' : Memory.risesFrom lo m' = true) (hr : ∀ a, m.read a = m'.read a) : m = m' := by
  induction m generalizing lo m' with
  | nil =>
    cases m' with
    | nil => rfl
    | cons c m' => have := hr c.1; simp [Memory.read] at this
  | cons c m ih =>
    cases m' with
    | nil => have := hr c.1; simp [Memory.read] at this
    | cons c' m' =>
      simp only [Memory.risesFrom, Bool.and_eq_true, decide_eq_true_eq] at h h'
      have hc := hr c.1
      have hc' := hr c'.1
      have heq : c.1 = c'.1 := by
        by_contra hne
        rcases Nat.lt_or_gt_of_ne hne with hlt | hgt
        · have := Memory.read_of_lt h'.2 (a := c.1) (by omega)
          simp [Memory.read, Ne.symm hne, this] at hc
        · have := Memory.read_of_lt h.2 (a := c'.1) (by omega)
          simp [Memory.read, hne, this] at hc'
      have hv : c.2 = c'.2 := by simpa [Memory.read, heq] using hc
      have htail : ∀ a, Memory.read m a = Memory.read m' a := by
        intro a
        by_cases ha : c.1 = a
        · rw [Memory.read_of_lt h.2 (by omega), Memory.read_of_lt h'.2 (by omega)]
        · have := hr a
          simpa [Memory.read, ha, heq ▸ ha] using this
      have := ih h.2 (heq ▸ h'.2) htail
      rw [this, Prod.ext heq hv]

/-- Canonical memories that read alike are equal data. -/
theorem Memory.eq_of_read_eq {m m' : Memory} (h : m.wf = true) (h' : m'.wf = true)
    (hr : ∀ a, m.read a = m'.read a) : m = m' :=
  Memory.eq_of_read_eq_from h h' hr

end Sys2Proof.Machine
end

