-- ==== Sys2Proof/Laws/State.lean ====
section
/-! SUPPORT. The fields of the named updates of State: one lemma per field per update. -/

namespace Sys2Proof.Machine

/-! ### finish -/

@[simp] theorem finish_cfg (v : Word) (s : State) : (finish v s).cfg = s.cfg := rfl
@[simp] theorem finish_done (v : Word) (s : State) : (finish v s).done = true := rfl
@[simp] theorem finish_err (v : Word) (s : State) : (finish v s).err = v.msb := rfl
@[simp] theorem finish_trunc (v : Word) (s : State) : (finish v s).trunc = s.trunc := rfl
@[simp] theorem finish_irqEn (v : Word) (s : State) : (finish v s).irqEn = s.irqEn := rfl
@[simp] theorem finish_textLen (v : Word) (s : State) : (finish v s).textLen = s.textLen := rfl
@[simp] theorem finish_capacity (v : Word) (s : State) : (finish v s).capacity = s.capacity := rfl
@[simp] theorem finish_length (v : Word) (s : State) : (finish v s).length = s.length := rfl
@[simp] theorem finish_flags (v : Word) (s : State) : (finish v s).flags = s.flags := rfl
@[simp] theorem finish_result (v : Word) (s : State) : (finish v s).result = v := rfl
@[simp] theorem finish_text (v : Word) (s : State) : (finish v s).text = s.text := rfl
@[simp] theorem finish_buf (v : Word) (s : State) : (finish v s).buf = s.buf := rfl
@[simp] theorem finish_eng (v : Word) (s : State) : (finish v s).eng = .idle := rfl
@[simp] theorem finish_op (v : Word) (s : State) : (finish v s).op = s.op := rfl
@[simp] theorem finish_tlen (v : Word) (s : State) : (finish v s).tlen = s.tlen := rfl
@[simp] theorem finish_cap (v : Word) (s : State) : (finish v s).cap = s.cap := rfl
@[simp] theorem finish_dlen (v : Word) (s : State) : (finish v s).dlen = s.dlen := rfl
@[simp] theorem finish_base (v : Word) (s : State) : (finish v s).base = s.base := rfl
@[simp] theorem finish_mode (v : Word) (s : State) : (finish v s).mode = s.mode := rfl
@[simp] theorem finish_i (v : Word) (s : State) : (finish v s).i = s.i := rfl
@[simp] theorem finish_p (v : Word) (s : State) : (finish v s).p = s.p := rfl
@[simp] theorem finish_k (v : Word) (s : State) : (finish v s).k = s.k := rfl
@[simp] theorem finish_halted (v : Word) (s : State) : (finish v s).halted = s.halted := rfl
@[simp] theorem finish_cc (v : Word) (s : State) : (finish v s).cc = s.cc := rfl
@[simp] theorem finish_j (v : Word) (s : State) : (finish v s).j = s.j := rfl
@[simp] theorem finish_bi (v : Word) (s : State) : (finish v s).bi = s.bi := rfl
@[simp] theorem finish_slot (v : Word) (s : State) : (finish v s).slot = s.slot := rfl
@[simp] theorem finish_cnt (v : Word) (s : State) : (finish v s).cnt = s.cnt := rfl
@[simp] theorem finish_b (v : Word) (s : State) : (finish v s).b = s.b := rfl
@[simp] theorem finish_q (v : Word) (s : State) : (finish v s).q = s.q := rfl
@[simp] theorem finish_evValid (v : Word) (s : State) : (finish v s).evValid = s.evValid := rfl
@[simp] theorem finish_evKind (v : Word) (s : State) : (finish v s).evKind = s.evKind := rfl
@[simp] theorem finish_evFlags (v : Word) (s : State) : (finish v s).evFlags = s.evFlags := rfl
@[simp] theorem finish_schedule (v : Word) (s : State) : (finish v s).schedule = s.schedule := rfl
@[simp] theorem finish_delivered (v : Word) (s : State) : (finish v s).delivered = s.delivered := rfl
@[simp] theorem finish_reads (v : Word) (s : State) : (finish v s).reads = s.reads := rfl
@[simp] theorem finish_freeIdx (v : Word) (s : State) : (finish v s).freeIdx = s.freeIdx := rfl

/-! ### clearStatus -/

@[simp] theorem clearStatus_cfg (s : State) : (clearStatus s).cfg = s.cfg := rfl
@[simp] theorem clearStatus_done (s : State) : (clearStatus s).done = false := rfl
@[simp] theorem clearStatus_err (s : State) : (clearStatus s).err = false := rfl
@[simp] theorem clearStatus_trunc (s : State) : (clearStatus s).trunc = false := rfl
@[simp] theorem clearStatus_irqEn (s : State) : (clearStatus s).irqEn = s.irqEn := rfl
@[simp] theorem clearStatus_textLen (s : State) : (clearStatus s).textLen = s.textLen := rfl
@[simp] theorem clearStatus_capacity (s : State) : (clearStatus s).capacity = s.capacity := rfl
@[simp] theorem clearStatus_length (s : State) : (clearStatus s).length = s.length := rfl
@[simp] theorem clearStatus_flags (s : State) : (clearStatus s).flags = s.flags := rfl
@[simp] theorem clearStatus_result (s : State) : (clearStatus s).result = s.result := rfl
@[simp] theorem clearStatus_text (s : State) : (clearStatus s).text = s.text := rfl
@[simp] theorem clearStatus_buf (s : State) : (clearStatus s).buf = s.buf := rfl
@[simp] theorem clearStatus_eng (s : State) : (clearStatus s).eng = s.eng := rfl
@[simp] theorem clearStatus_op (s : State) : (clearStatus s).op = s.op := rfl
@[simp] theorem clearStatus_tlen (s : State) : (clearStatus s).tlen = s.tlen := rfl
@[simp] theorem clearStatus_cap (s : State) : (clearStatus s).cap = s.cap := rfl
@[simp] theorem clearStatus_dlen (s : State) : (clearStatus s).dlen = s.dlen := rfl
@[simp] theorem clearStatus_base (s : State) : (clearStatus s).base = s.base := rfl
@[simp] theorem clearStatus_mode (s : State) : (clearStatus s).mode = s.mode := rfl
@[simp] theorem clearStatus_i (s : State) : (clearStatus s).i = s.i := rfl
@[simp] theorem clearStatus_p (s : State) : (clearStatus s).p = s.p := rfl
@[simp] theorem clearStatus_k (s : State) : (clearStatus s).k = s.k := rfl
@[simp] theorem clearStatus_halted (s : State) : (clearStatus s).halted = s.halted := rfl
@[simp] theorem clearStatus_cc (s : State) : (clearStatus s).cc = s.cc := rfl
@[simp] theorem clearStatus_j (s : State) : (clearStatus s).j = s.j := rfl
@[simp] theorem clearStatus_bi (s : State) : (clearStatus s).bi = s.bi := rfl
@[simp] theorem clearStatus_slot (s : State) : (clearStatus s).slot = s.slot := rfl
@[simp] theorem clearStatus_cnt (s : State) : (clearStatus s).cnt = s.cnt := rfl
@[simp] theorem clearStatus_b (s : State) : (clearStatus s).b = s.b := rfl
@[simp] theorem clearStatus_q (s : State) : (clearStatus s).q = s.q := rfl
@[simp] theorem clearStatus_evValid (s : State) : (clearStatus s).evValid = s.evValid := rfl
@[simp] theorem clearStatus_evKind (s : State) : (clearStatus s).evKind = s.evKind := rfl
@[simp] theorem clearStatus_evFlags (s : State) : (clearStatus s).evFlags = s.evFlags := rfl
@[simp] theorem clearStatus_schedule (s : State) : (clearStatus s).schedule = s.schedule := rfl
@[simp] theorem clearStatus_delivered (s : State) : (clearStatus s).delivered = s.delivered := rfl
@[simp] theorem clearStatus_reads (s : State) : (clearStatus s).reads = s.reads := rfl
@[simp] theorem clearStatus_freeIdx (s : State) : (clearStatus s).freeIdx = s.freeIdx := rfl

/-! ### latch -/

@[simp] theorem latch_cfg (o : BitVec 2) (s : State) : (latch o s).cfg = s.cfg := rfl
@[simp] theorem latch_done (o : BitVec 2) (s : State) : (latch o s).done = s.done := rfl
@[simp] theorem latch_err (o : BitVec 2) (s : State) : (latch o s).err = s.err := rfl
@[simp] theorem latch_trunc (o : BitVec 2) (s : State) : (latch o s).trunc = s.trunc := rfl
@[simp] theorem latch_irqEn (o : BitVec 2) (s : State) : (latch o s).irqEn = s.irqEn := rfl
@[simp] theorem latch_textLen (o : BitVec 2) (s : State) : (latch o s).textLen = s.textLen := rfl
@[simp] theorem latch_capacity (o : BitVec 2) (s : State) : (latch o s).capacity = s.capacity := rfl
@[simp] theorem latch_length (o : BitVec 2) (s : State) : (latch o s).length = s.length := rfl
@[simp] theorem latch_flags (o : BitVec 2) (s : State) : (latch o s).flags = s.flags := rfl
@[simp] theorem latch_result (o : BitVec 2) (s : State) : (latch o s).result = s.result := rfl
@[simp] theorem latch_text (o : BitVec 2) (s : State) : (latch o s).text = s.text := rfl
@[simp] theorem latch_buf (o : BitVec 2) (s : State) : (latch o s).buf = s.buf := rfl
@[simp] theorem latch_eng (o : BitVec 2) (s : State) : (latch o s).eng = s.eng := rfl
@[simp] theorem latch_op (o : BitVec 2) (s : State) : (latch o s).op = o := rfl
@[simp] theorem latch_tlen (o : BitVec 2) (s : State) : (latch o s).tlen = s.textLen := rfl
@[simp] theorem latch_cap (o : BitVec 2) (s : State) : (latch o s).cap = s.capacity := rfl
@[simp] theorem latch_dlen (o : BitVec 2) (s : State) : (latch o s).dlen = s.length := rfl
@[simp] theorem latch_base (o : BitVec 2) (s : State) : (latch o s).base = flagsBase s.flags := rfl
@[simp] theorem latch_mode (o : BitVec 2) (s : State) : (latch o s).mode = s.mode := rfl
@[simp] theorem latch_i (o : BitVec 2) (s : State) : (latch o s).i = s.i := rfl
@[simp] theorem latch_p (o : BitVec 2) (s : State) : (latch o s).p = s.p := rfl
@[simp] theorem latch_k (o : BitVec 2) (s : State) : (latch o s).k = s.k := rfl
@[simp] theorem latch_halted (o : BitVec 2) (s : State) : (latch o s).halted = s.halted := rfl
@[simp] theorem latch_cc (o : BitVec 2) (s : State) : (latch o s).cc = s.cc := rfl
@[simp] theorem latch_j (o : BitVec 2) (s : State) : (latch o s).j = s.j := rfl
@[simp] theorem latch_bi (o : BitVec 2) (s : State) : (latch o s).bi = s.bi := rfl
@[simp] theorem latch_slot (o : BitVec 2) (s : State) : (latch o s).slot = s.slot := rfl
@[simp] theorem latch_cnt (o : BitVec 2) (s : State) : (latch o s).cnt = s.cnt := rfl
@[simp] theorem latch_b (o : BitVec 2) (s : State) : (latch o s).b = s.b := rfl
@[simp] theorem latch_q (o : BitVec 2) (s : State) : (latch o s).q = s.q := rfl
@[simp] theorem latch_evValid (o : BitVec 2) (s : State) : (latch o s).evValid = s.evValid := rfl
@[simp] theorem latch_evKind (o : BitVec 2) (s : State) : (latch o s).evKind = s.evKind := rfl
@[simp] theorem latch_evFlags (o : BitVec 2) (s : State) : (latch o s).evFlags = s.evFlags := rfl
@[simp] theorem latch_schedule (o : BitVec 2) (s : State) : (latch o s).schedule = s.schedule := rfl
@[simp] theorem latch_delivered (o : BitVec 2) (s : State) : (latch o s).delivered = s.delivered := rfl
@[simp] theorem latch_reads (o : BitVec 2) (s : State) : (latch o s).reads = s.reads := rfl
@[simp] theorem latch_freeIdx (o : BitVec 2) (s : State) : (latch o s).freeIdx = s.freeIdx := rfl

/-! ### writeBuf -/

@[simp] theorem writeBuf_cfg (a : Nat) (v : Byte) (s : State) : (writeBuf a v s).cfg = s.cfg := rfl
@[simp] theorem writeBuf_done (a : Nat) (v : Byte) (s : State) : (writeBuf a v s).done = s.done := rfl
@[simp] theorem writeBuf_err (a : Nat) (v : Byte) (s : State) : (writeBuf a v s).err = s.err := rfl
@[simp] theorem writeBuf_trunc (a : Nat) (v : Byte) (s : State) : (writeBuf a v s).trunc = s.trunc := rfl
@[simp] theorem writeBuf_irqEn (a : Nat) (v : Byte) (s : State) : (writeBuf a v s).irqEn = s.irqEn := rfl
@[simp] theorem writeBuf_textLen (a : Nat) (v : Byte) (s : State) : (writeBuf a v s).textLen = s.textLen := rfl
@[simp] theorem writeBuf_capacity (a : Nat) (v : Byte) (s : State) : (writeBuf a v s).capacity = s.capacity := rfl
@[simp] theorem writeBuf_length (a : Nat) (v : Byte) (s : State) : (writeBuf a v s).length = s.length := rfl
@[simp] theorem writeBuf_flags (a : Nat) (v : Byte) (s : State) : (writeBuf a v s).flags = s.flags := rfl
@[simp] theorem writeBuf_result (a : Nat) (v : Byte) (s : State) : (writeBuf a v s).result = s.result := rfl
@[simp] theorem writeBuf_text (a : Nat) (v : Byte) (s : State) : (writeBuf a v s).text = s.text := rfl
@[simp] theorem writeBuf_buf (a : Nat) (v : Byte) (s : State) : (writeBuf a v s).buf = s.buf.write a v := rfl
@[simp] theorem writeBuf_eng (a : Nat) (v : Byte) (s : State) : (writeBuf a v s).eng = s.eng := rfl
@[simp] theorem writeBuf_op (a : Nat) (v : Byte) (s : State) : (writeBuf a v s).op = s.op := rfl
@[simp] theorem writeBuf_tlen (a : Nat) (v : Byte) (s : State) : (writeBuf a v s).tlen = s.tlen := rfl
@[simp] theorem writeBuf_cap (a : Nat) (v : Byte) (s : State) : (writeBuf a v s).cap = s.cap := rfl
@[simp] theorem writeBuf_dlen (a : Nat) (v : Byte) (s : State) : (writeBuf a v s).dlen = s.dlen := rfl
@[simp] theorem writeBuf_base (a : Nat) (v : Byte) (s : State) : (writeBuf a v s).base = s.base := rfl
@[simp] theorem writeBuf_mode (a : Nat) (v : Byte) (s : State) : (writeBuf a v s).mode = s.mode := rfl
@[simp] theorem writeBuf_i (a : Nat) (v : Byte) (s : State) : (writeBuf a v s).i = s.i := rfl
@[simp] theorem writeBuf_p (a : Nat) (v : Byte) (s : State) : (writeBuf a v s).p = s.p := rfl
@[simp] theorem writeBuf_k (a : Nat) (v : Byte) (s : State) : (writeBuf a v s).k = s.k := rfl
@[simp] theorem writeBuf_halted (a : Nat) (v : Byte) (s : State) : (writeBuf a v s).halted = s.halted := rfl
@[simp] theorem writeBuf_cc (a : Nat) (v : Byte) (s : State) : (writeBuf a v s).cc = s.cc := rfl
@[simp] theorem writeBuf_j (a : Nat) (v : Byte) (s : State) : (writeBuf a v s).j = s.j := rfl
@[simp] theorem writeBuf_bi (a : Nat) (v : Byte) (s : State) : (writeBuf a v s).bi = s.bi := rfl
@[simp] theorem writeBuf_slot (a : Nat) (v : Byte) (s : State) : (writeBuf a v s).slot = s.slot := rfl
@[simp] theorem writeBuf_cnt (a : Nat) (v : Byte) (s : State) : (writeBuf a v s).cnt = s.cnt := rfl
@[simp] theorem writeBuf_b (a : Nat) (v : Byte) (s : State) : (writeBuf a v s).b = s.b := rfl
@[simp] theorem writeBuf_q (a : Nat) (v : Byte) (s : State) : (writeBuf a v s).q = s.q := rfl
@[simp] theorem writeBuf_evValid (a : Nat) (v : Byte) (s : State) : (writeBuf a v s).evValid = s.evValid := rfl
@[simp] theorem writeBuf_evKind (a : Nat) (v : Byte) (s : State) : (writeBuf a v s).evKind = s.evKind := rfl
@[simp] theorem writeBuf_evFlags (a : Nat) (v : Byte) (s : State) : (writeBuf a v s).evFlags = s.evFlags := rfl
@[simp] theorem writeBuf_schedule (a : Nat) (v : Byte) (s : State) : (writeBuf a v s).schedule = s.schedule := rfl
@[simp] theorem writeBuf_delivered (a : Nat) (v : Byte) (s : State) : (writeBuf a v s).delivered = s.delivered := rfl
@[simp] theorem writeBuf_reads (a : Nat) (v : Byte) (s : State) : (writeBuf a v s).reads = s.reads := rfl
@[simp] theorem writeBuf_freeIdx (a : Nat) (v : Byte) (s : State) : (writeBuf a v s).freeIdx = s.freeIdx := rfl

/-! ### present -/

@[simp] theorem present_cfg (e : Event) (s : State) : (present e s).cfg = s.cfg := rfl
@[simp] theorem present_done (e : Event) (s : State) : (present e s).done = s.done := rfl
@[simp] theorem present_err (e : Event) (s : State) : (present e s).err = s.err := rfl
@[simp] theorem present_trunc (e : Event) (s : State) : (present e s).trunc = s.trunc := rfl
@[simp] theorem present_irqEn (e : Event) (s : State) : (present e s).irqEn = s.irqEn := rfl
@[simp] theorem present_textLen (e : Event) (s : State) : (present e s).textLen = s.textLen := rfl
@[simp] theorem present_capacity (e : Event) (s : State) : (present e s).capacity = s.capacity := rfl
@[simp] theorem present_length (e : Event) (s : State) : (present e s).length = s.length := rfl
@[simp] theorem present_flags (e : Event) (s : State) : (present e s).flags = s.flags := rfl
@[simp] theorem present_result (e : Event) (s : State) : (present e s).result = s.result := rfl
@[simp] theorem present_text (e : Event) (s : State) : (present e s).text = s.text := rfl
@[simp] theorem present_buf (e : Event) (s : State) : (present e s).buf = s.buf := rfl
@[simp] theorem present_eng (e : Event) (s : State) : (present e s).eng = s.eng := rfl
@[simp] theorem present_op (e : Event) (s : State) : (present e s).op = s.op := rfl
@[simp] theorem present_tlen (e : Event) (s : State) : (present e s).tlen = s.tlen := rfl
@[simp] theorem present_cap (e : Event) (s : State) : (present e s).cap = s.cap := rfl
@[simp] theorem present_dlen (e : Event) (s : State) : (present e s).dlen = s.dlen := rfl
@[simp] theorem present_base (e : Event) (s : State) : (present e s).base = s.base := rfl
@[simp] theorem present_mode (e : Event) (s : State) : (present e s).mode = s.mode := rfl
@[simp] theorem present_i (e : Event) (s : State) : (present e s).i = s.i := rfl
@[simp] theorem present_p (e : Event) (s : State) : (present e s).p = s.p := rfl
@[simp] theorem present_k (e : Event) (s : State) : (present e s).k = s.k := rfl
@[simp] theorem present_halted (e : Event) (s : State) : (present e s).halted = s.halted := rfl
@[simp] theorem present_cc (e : Event) (s : State) : (present e s).cc = s.cc := rfl
@[simp] theorem present_j (e : Event) (s : State) : (present e s).j = s.j := rfl
@[simp] theorem present_bi (e : Event) (s : State) : (present e s).bi = s.bi := rfl
@[simp] theorem present_slot (e : Event) (s : State) : (present e s).slot = s.slot := rfl
@[simp] theorem present_cnt (e : Event) (s : State) : (present e s).cnt = s.cnt := rfl
@[simp] theorem present_b (e : Event) (s : State) : (present e s).b = s.b := rfl
@[simp] theorem present_q (e : Event) (s : State) : (present e s).q = s.q := rfl
@[simp] theorem present_evValid (e : Event) (s : State) : (present e s).evValid = true := rfl
@[simp] theorem present_evKind (e : Event) (s : State) : (present e s).evKind = e.kind.code := rfl
@[simp] theorem present_evFlags (e : Event) (s : State) : (present e s).evFlags = e.flags := rfl
@[simp] theorem present_schedule (e : Event) (s : State) : (present e s).schedule = s.schedule := rfl
@[simp] theorem present_delivered (e : Event) (s : State) : (present e s).delivered = s.delivered := rfl
@[simp] theorem present_reads (e : Event) (s : State) : (present e s).reads = s.reads := rfl
@[simp] theorem present_freeIdx (e : Event) (s : State) : (present e s).freeIdx = s.freeIdx := rfl

/-! ### withdraw -/

@[simp] theorem withdraw_cfg (s : State) : (withdraw s).cfg = s.cfg := rfl
@[simp] theorem withdraw_done (s : State) : (withdraw s).done = s.done := rfl
@[simp] theorem withdraw_err (s : State) : (withdraw s).err = s.err := rfl
@[simp] theorem withdraw_trunc (s : State) : (withdraw s).trunc = s.trunc := rfl
@[simp] theorem withdraw_irqEn (s : State) : (withdraw s).irqEn = s.irqEn := rfl
@[simp] theorem withdraw_textLen (s : State) : (withdraw s).textLen = s.textLen := rfl
@[simp] theorem withdraw_capacity (s : State) : (withdraw s).capacity = s.capacity := rfl
@[simp] theorem withdraw_length (s : State) : (withdraw s).length = s.length := rfl
@[simp] theorem withdraw_flags (s : State) : (withdraw s).flags = s.flags := rfl
@[simp] theorem withdraw_result (s : State) : (withdraw s).result = s.result := rfl
@[simp] theorem withdraw_text (s : State) : (withdraw s).text = s.text := rfl
@[simp] theorem withdraw_buf (s : State) : (withdraw s).buf = s.buf := rfl
@[simp] theorem withdraw_eng (s : State) : (withdraw s).eng = s.eng := rfl
@[simp] theorem withdraw_op (s : State) : (withdraw s).op = s.op := rfl
@[simp] theorem withdraw_tlen (s : State) : (withdraw s).tlen = s.tlen := rfl
@[simp] theorem withdraw_cap (s : State) : (withdraw s).cap = s.cap := rfl
@[simp] theorem withdraw_dlen (s : State) : (withdraw s).dlen = s.dlen := rfl
@[simp] theorem withdraw_base (s : State) : (withdraw s).base = s.base := rfl
@[simp] theorem withdraw_mode (s : State) : (withdraw s).mode = s.mode := rfl
@[simp] theorem withdraw_i (s : State) : (withdraw s).i = s.i := rfl
@[simp] theorem withdraw_p (s : State) : (withdraw s).p = s.p := rfl
@[simp] theorem withdraw_k (s : State) : (withdraw s).k = s.k := rfl
@[simp] theorem withdraw_halted (s : State) : (withdraw s).halted = s.halted := rfl
@[simp] theorem withdraw_cc (s : State) : (withdraw s).cc = s.cc := rfl
@[simp] theorem withdraw_j (s : State) : (withdraw s).j = s.j := rfl
@[simp] theorem withdraw_bi (s : State) : (withdraw s).bi = s.bi := rfl
@[simp] theorem withdraw_slot (s : State) : (withdraw s).slot = s.slot := rfl
@[simp] theorem withdraw_cnt (s : State) : (withdraw s).cnt = s.cnt := rfl
@[simp] theorem withdraw_b (s : State) : (withdraw s).b = s.b := rfl
@[simp] theorem withdraw_q (s : State) : (withdraw s).q = s.q := rfl
@[simp] theorem withdraw_evValid (s : State) : (withdraw s).evValid = false := rfl
@[simp] theorem withdraw_evKind (s : State) : (withdraw s).evKind = Config.freeEvKind s.freeIdx := rfl
@[simp] theorem withdraw_evFlags (s : State) : (withdraw s).evFlags = Config.freeEvFlags s.freeIdx := rfl
@[simp] theorem withdraw_schedule (s : State) : (withdraw s).schedule = s.schedule := rfl
@[simp] theorem withdraw_delivered (s : State) : (withdraw s).delivered = s.delivered := rfl
@[simp] theorem withdraw_reads (s : State) : (withdraw s).reads = s.reads := rfl
@[simp] theorem withdraw_freeIdx (s : State) : (withdraw s).freeIdx = s.freeIdx + 1 := rfl

/-! ### answerRead -/

@[simp] theorem answerRead_cfg (v : Word) (s : State) : (answerRead v s).cfg = s.cfg := rfl
@[simp] theorem answerRead_done (v : Word) (s : State) : (answerRead v s).done = s.done := rfl
@[simp] theorem answerRead_err (v : Word) (s : State) : (answerRead v s).err = s.err := rfl
@[simp] theorem answerRead_trunc (v : Word) (s : State) : (answerRead v s).trunc = s.trunc := rfl
@[simp] theorem answerRead_irqEn (v : Word) (s : State) : (answerRead v s).irqEn = s.irqEn := rfl
@[simp] theorem answerRead_textLen (v : Word) (s : State) : (answerRead v s).textLen = s.textLen := rfl
@[simp] theorem answerRead_capacity (v : Word) (s : State) : (answerRead v s).capacity = s.capacity := rfl
@[simp] theorem answerRead_length (v : Word) (s : State) : (answerRead v s).length = s.length := rfl
@[simp] theorem answerRead_flags (v : Word) (s : State) : (answerRead v s).flags = s.flags := rfl
@[simp] theorem answerRead_result (v : Word) (s : State) : (answerRead v s).result = s.result := rfl
@[simp] theorem answerRead_text (v : Word) (s : State) : (answerRead v s).text = s.text := rfl
@[simp] theorem answerRead_buf (v : Word) (s : State) : (answerRead v s).buf = s.buf := rfl
@[simp] theorem answerRead_eng (v : Word) (s : State) : (answerRead v s).eng = s.eng := rfl
@[simp] theorem answerRead_op (v : Word) (s : State) : (answerRead v s).op = s.op := rfl
@[simp] theorem answerRead_tlen (v : Word) (s : State) : (answerRead v s).tlen = s.tlen := rfl
@[simp] theorem answerRead_cap (v : Word) (s : State) : (answerRead v s).cap = s.cap := rfl
@[simp] theorem answerRead_dlen (v : Word) (s : State) : (answerRead v s).dlen = s.dlen := rfl
@[simp] theorem answerRead_base (v : Word) (s : State) : (answerRead v s).base = s.base := rfl
@[simp] theorem answerRead_mode (v : Word) (s : State) : (answerRead v s).mode = s.mode := rfl
@[simp] theorem answerRead_i (v : Word) (s : State) : (answerRead v s).i = s.i := rfl
@[simp] theorem answerRead_p (v : Word) (s : State) : (answerRead v s).p = s.p := rfl
@[simp] theorem answerRead_k (v : Word) (s : State) : (answerRead v s).k = s.k := rfl
@[simp] theorem answerRead_halted (v : Word) (s : State) : (answerRead v s).halted = s.halted := rfl
@[simp] theorem answerRead_cc (v : Word) (s : State) : (answerRead v s).cc = s.cc := rfl
@[simp] theorem answerRead_j (v : Word) (s : State) : (answerRead v s).j = s.j := rfl
@[simp] theorem answerRead_bi (v : Word) (s : State) : (answerRead v s).bi = s.bi := rfl
@[simp] theorem answerRead_slot (v : Word) (s : State) : (answerRead v s).slot = s.slot := rfl
@[simp] theorem answerRead_cnt (v : Word) (s : State) : (answerRead v s).cnt = s.cnt := rfl
@[simp] theorem answerRead_b (v : Word) (s : State) : (answerRead v s).b = s.b := rfl
@[simp] theorem answerRead_q (v : Word) (s : State) : (answerRead v s).q = s.q := rfl
@[simp] theorem answerRead_evValid (v : Word) (s : State) : (answerRead v s).evValid = s.evValid := rfl
@[simp] theorem answerRead_evKind (v : Word) (s : State) : (answerRead v s).evKind = s.evKind := rfl
@[simp] theorem answerRead_evFlags (v : Word) (s : State) : (answerRead v s).evFlags = s.evFlags := rfl
@[simp] theorem answerRead_schedule (v : Word) (s : State) : (answerRead v s).schedule = s.schedule := rfl
@[simp] theorem answerRead_delivered (v : Word) (s : State) : (answerRead v s).delivered = s.delivered := rfl
@[simp] theorem answerRead_reads (v : Word) (s : State) : (answerRead v s).reads = s.reads ++ [v] := rfl
@[simp] theorem answerRead_freeIdx (v : Word) (s : State) : (answerRead v s).freeIdx = s.freeIdx := rfl

/-! ### resetCursors -/

@[simp] theorem resetCursors_cfg (s : State) : (resetCursors s).cfg = s.cfg := rfl
@[simp] theorem resetCursors_done (s : State) : (resetCursors s).done = s.done := rfl
@[simp] theorem resetCursors_err (s : State) : (resetCursors s).err = s.err := rfl
@[simp] theorem resetCursors_trunc (s : State) : (resetCursors s).trunc = s.trunc := rfl
@[simp] theorem resetCursors_irqEn (s : State) : (resetCursors s).irqEn = s.irqEn := rfl
@[simp] theorem resetCursors_textLen (s : State) : (resetCursors s).textLen = s.textLen := rfl
@[simp] theorem resetCursors_capacity (s : State) : (resetCursors s).capacity = s.capacity := rfl
@[simp] theorem resetCursors_length (s : State) : (resetCursors s).length = s.length := rfl
@[simp] theorem resetCursors_flags (s : State) : (resetCursors s).flags = s.flags := rfl
@[simp] theorem resetCursors_result (s : State) : (resetCursors s).result = s.result := rfl
@[simp] theorem resetCursors_text (s : State) : (resetCursors s).text = s.text := rfl
@[simp] theorem resetCursors_buf (s : State) : (resetCursors s).buf = s.buf := rfl
@[simp] theorem resetCursors_eng (s : State) : (resetCursors s).eng = s.eng := rfl
@[simp] theorem resetCursors_op (s : State) : (resetCursors s).op = s.op := rfl
@[simp] theorem resetCursors_tlen (s : State) : (resetCursors s).tlen = s.tlen := rfl
@[simp] theorem resetCursors_cap (s : State) : (resetCursors s).cap = s.cap := rfl
@[simp] theorem resetCursors_dlen (s : State) : (resetCursors s).dlen = s.dlen := rfl
@[simp] theorem resetCursors_base (s : State) : (resetCursors s).base = s.base := rfl
@[simp] theorem resetCursors_mode (s : State) : (resetCursors s).mode = s.mode := rfl
@[simp] theorem resetCursors_i (s : State) : (resetCursors s).i = 0 := rfl
@[simp] theorem resetCursors_p (s : State) : (resetCursors s).p = 0 := rfl
@[simp] theorem resetCursors_k (s : State) : (resetCursors s).k = 0 := rfl
@[simp] theorem resetCursors_halted (s : State) : (resetCursors s).halted = false := rfl
@[simp] theorem resetCursors_cc (s : State) : (resetCursors s).cc = s.cc := rfl
@[simp] theorem resetCursors_j (s : State) : (resetCursors s).j = s.j := rfl
@[simp] theorem resetCursors_bi (s : State) : (resetCursors s).bi = s.bi := rfl
@[simp] theorem resetCursors_slot (s : State) : (resetCursors s).slot = s.slot := rfl
@[simp] theorem resetCursors_cnt (s : State) : (resetCursors s).cnt = s.cnt := rfl
@[simp] theorem resetCursors_b (s : State) : (resetCursors s).b = s.b := rfl
@[simp] theorem resetCursors_q (s : State) : (resetCursors s).q = s.q := rfl
@[simp] theorem resetCursors_evValid (s : State) : (resetCursors s).evValid = s.evValid := rfl
@[simp] theorem resetCursors_evKind (s : State) : (resetCursors s).evKind = s.evKind := rfl
@[simp] theorem resetCursors_evFlags (s : State) : (resetCursors s).evFlags = s.evFlags := rfl
@[simp] theorem resetCursors_schedule (s : State) : (resetCursors s).schedule = s.schedule := rfl
@[simp] theorem resetCursors_delivered (s : State) : (resetCursors s).delivered = s.delivered := rfl
@[simp] theorem resetCursors_reads (s : State) : (resetCursors s).reads = s.reads := rfl
@[simp] theorem resetCursors_freeIdx (s : State) : (resetCursors s).freeIdx = s.freeIdx := rfl

/-! ### BUSY -/

@[simp] theorem finish_busy (v : Word) (s : State) : (finish v s).busy = false := rfl

@[simp] theorem clearStatus_busy (s : State) : (clearStatus s).busy = s.busy := rfl

@[simp] theorem latch_busy (o : BitVec 2) (s : State) : (latch o s).busy = s.busy := rfl

theorem busy_eq_false_iff (s : State) : s.busy = false ↔ s.eng = .idle := by
  simp [State.busy]

theorem busy_eq_true_iff (s : State) : s.busy = true ↔ s.eng ≠ .idle := by
  simp [State.busy]

end Sys2Proof.Machine
end

