-- ==== Sys2Proof/Laws/Ops.lean ====
section
/-! SUPPORT. One lemma per shared operation: everything it can answer. -/

namespace Sys2Proof.Machine

/-! ### Micro-operations -/

@[simp] theorem Micro.bind_ok {α β : Type} (a : α) (f : α → Micro β) : (Micro.ok a).bind f = f a := rfl

@[simp] theorem Micro.bind_ended {α β : Type} (s : State) (f : α → Micro β) : (Micro.ended s).bind f = .ended s := rfl

@[simp] theorem Micro.bind_fault {α β : Type} (e : Fault) (f : α → Micro β) : (Micro.fault e).bind f = .fault e := rfl

@[simp] theorem Micro.toOutcome_ok (s : State) : (Micro.ok s).toOutcome = .next s := rfl

@[simp] theorem Micro.toOutcome_ended (s : State) : (Micro.ended s).toOutcome = .next s := rfl

@[simp] theorem Micro.toOutcome_fault (e : Fault) : (Micro.fault e).toOutcome = .fault e := rfl

/-- A bind that answers a value ran its first part to a value. -/
theorem Micro.bind_eq_ok {α β : Type} {m : Micro α} {f : α → Micro β} {r : β} (h : m.bind f = .ok r) :
    ∃ a, m = .ok a ∧ f a = .ok r := by
  cases m with
  | ok a => exact ⟨a, rfl, h⟩
  | ended s => cases h
  | fault e => cases h

/-- A bind that ends the command did so in its first part or in its second. -/
theorem Micro.bind_eq_ended {α β : Type} {m : Micro α} {f : α → Micro β} {s : State} (h : m.bind f = .ended s) :
    m = .ended s ∨ ∃ a, m = .ok a ∧ f a = .ended s := by
  cases m with
  | ok a => exact .inr ⟨a, rfl, h⟩
  | ended t => cases h; exact .inl rfl
  | fault e => cases h

/-- A bind that faults did so in its first part or in its second. -/
theorem Micro.bind_eq_fault {α β : Type} {m : Micro α} {f : α → Micro β} {e : Fault} (h : m.bind f = .fault e) :
    m = .fault e ∨ ∃ a, m = .ok a ∧ f a = .fault e := by
  cases m with
  | ok a => exact .inr ⟨a, rfl, h⟩
  | ended s => cases h
  | fault e' => cases h; exact .inl rfl

/-- A next state comes from a value or from an ended command. -/
theorem Micro.toOutcome_eq_next {m : Micro State} {t : State} (h : m.toOutcome = .next t) :
    m = .ok t ∨ m = .ended t := by
  cases m with
  | ok s => cases h; exact .inl rfl
  | ended s => cases h; exact .inr rfl
  | fault e => cases h

/-! ### Issue -/

theorem issue_of_busy (o : BitVec 2) (start : State → State) {s : State} (h : s.busy = true) :
    issue o start s = .next s := by
  simp [issue, h]

theorem issue_of_idle (o : BitVec 2) (start : State → State) {s : State} (h : s.busy = false) :
    issue o start s = .next (start (latch o (clearStatus s))) := by
  simp [issue, h]

/-- What an issue can do: nothing while BUSY = 1, else clear the status, latch the operands and start. -/
theorem issue_cases {o : BitVec 2} {start : State → State} {s t : State} (h : issue o start s = .next t) :
    (s.busy = true ∧ t = s) ∨ (s.busy = false ∧ t = start (latch o (clearStatus s))) := by
  cases hb : s.busy with
  | true => rw [issue_of_busy o start hb] at h; cases h; exact .inl ⟨rfl, rfl⟩
  | false => rw [issue_of_idle o start hb] at h; cases h; exact .inr ⟨rfl, rfl⟩

/-! ### Byte accesses -/

theorem readBuf_of_some {a : Nat} {v : Byte} {s : State} (h : s.buf.read a = some v) : readBuf a s = .ok v := by
  simp [readBuf, h]

theorem readBuf_of_none {a : Nat} {s : State} (h : s.buf.read a = none) : readBuf a s = .fault .unwrittenRead := by
  simp [readBuf, h]

theorem readText_of_some {a : Nat} {v : Byte} {s : State} (h : s.text.read a = some v) : readText a s = .ok v := by
  simp [readText, h]

theorem readText_of_none {a : Nat} {s : State} (h : s.text.read a = none) : readText a s = .fault .unwrittenRead := by
  simp [readText, h]

theorem readText_eq_ok {a : Nat} {v : Byte} {s : State} (h : readText a s = .ok v) : s.text.read a = some v := by
  cases hr : s.text.read a with
  | none => rw [readText_of_none hr] at h; cases h
  | some w => rw [readText_of_some hr] at h; cases h; rfl

theorem readBuf_eq_ok {a : Nat} {v : Byte} {s : State} (h : readBuf a s = .ok v) : s.buf.read a = some v := by
  cases hr : s.buf.read a with
  | none => rw [readBuf_of_none hr] at h; cases h
  | some w => rw [readBuf_of_some hr] at h; cases h; rfl

/-- A bounded write inside the capacity writes (R156). -/
theorem boundedWrite_of_lt {a : Nat} (v : Byte) {s : State} (h : a < s.cap.toNat) :
    boundedWrite a v s = .ok (writeBuf a v s) := by
  simp [boundedWrite, h]

/-- A bounded write outside it ends the command (R156). -/
theorem boundedWrite_of_ge {a : Nat} (v : Byte) {s : State} (h : s.cap.toNat ≤ a) :
    boundedWrite a v s = .ended (finish s.cfg.eOverrun s) := by
  simp [boundedWrite, Nat.not_lt.mpr h]

/-- A bounded deposit into a written byte inside the capacity ORs the group in (R67, R156). -/
theorem boundedGroup_of_lt {k : Nat} (g : Sym) {v : Byte} {s : State} (h : k / 4 < s.cap.toNat)
    (hr : s.buf.read (k / 4) = some v) :
    boundedGroup k g s = .ok (writeBuf (k / 4) (v ||| placeGroup g (k % 4)) s) := by
  simp [boundedGroup, h, orGroup, readBuf_of_some hr]

/-- A bounded deposit outside the capacity ends the command (R156). -/
theorem boundedGroup_of_ge {k : Nat} (g : Sym) {s : State} (h : s.cap.toNat ≤ k / 4) :
    boundedGroup k g s = .ended (finish s.cfg.eOverrun s) := by
  simp [boundedGroup, Nat.not_lt.mpr h]

end Sys2Proof.Machine
end

