-- ==== Sys2Proof/Laws/Dispatcher.lean ====
section
/-! SUPPORT. The laws of the dispatcher: flush, one slot visited, the walk's cursor, and the port. -/

namespace Sys2Proof.Machine

/-- The saturating count as a number (R195). -/
theorem toNat_countEndChar (cnt : BitVec 4) : (countEndChar cnt).toNat = min (cnt.toNat + 1) 15 := by
  revert cnt; decide

/-- Eight END_CHARs or more are the class STOP (R198). -/
theorem spaceClass_of_eight_le {n : Nat} (h : 8 ≤ n) : spaceClass n = .stop := by
  unfold spaceClass
  split_ifs <;> first | rfl | omega

/-- Saturation at 15 changes no class: only counts beyond the start of STOP are cut (R195). -/
theorem spaceClass_min (n : Nat) : spaceClass (min n 15) = spaceClass n := by
  rcases Nat.le_total n 15 with h | h
  · rw [Nat.min_eq_left h]
  · rw [Nat.min_eq_right h, spaceClass_of_eight_le (by omega : 8 ≤ n)]
    rfl

theorem flushEvents_eq_flushOf (s : State) : flushEvents s = flushOf s.cfg s.base s.cnt.toNat := by
  have : s.cnt = 0#4 ↔ s.cnt.toNat = 0 := by
    rw [← BitVec.toNat_inj]; rfl
  by_cases h : s.cnt = 0#4
  · simp [flushEvents, flushOf, h]
  · simp only [flushEvents, flushOf, h, if_false, if_neg (mt this.mpr h)]

theorem flushOf_min (c : Config) (base : Byte) (n : Nat) : flushOf c base (min n 15) = flushOf c base n := by
  have : min n 15 = 0 ↔ n = 0 := by omega
  simp only [flushOf, this, spaceClass_min]

/-- A flush is at most one event (R199). -/
theorem length_flushEvents (s : State) : (flushEvents s).length ≤ 1 := by
  by_cases h : s.cnt = 0#4 <;> simp [flushEvents, h]

/-! ### The shape of an event -/

/-- The low nibble of an event's flags is its code over the base's low nibble (R203). -/
theorem eventFlags_low (base : Byte) (code : BitVec 4) :
    eventFlags base code &&& 0x0F#8 = (base &&& 0x0F#8) ||| (code.setWidth 8 &&& 0x0F#8) := by
  rw [eventFlags]
  ext n
  simp only [BitVec.getElem_and, BitVec.getElem_or, Bool.and_or_distrib_right]

/-- The caller's bits of the base do not show in the shape of a Silence (R204). -/
theorem shape_silenceEvent {base base' : Byte} (c : Config) (cls : SpaceClass)
    (h : base &&& 0x0F#8 = base' &&& 0x0F#8) :
    (silenceEvent c base cls).shape = (silenceEvent c base' cls).shape := by
  simp only [Event.shape, silenceEvent, eventFlags_low, h]

/-- The caller's bits of the base do not show in the shape of a sound (R204). -/
theorem shape_soundEvent {base base' : Byte} (sym : Sym) (h : base &&& 0x0F#8 = base' &&& 0x0F#8) :
    (soundEvent base sym).shape = (soundEvent base' sym).shape := by
  simp only [Event.shape, soundEvent, eventFlags_low, h]

/-- A latched base has no low nibble (R39). -/
theorem flagsBase_low (f : Byte) : flagsBase f &&& 0x0F#8 = 0#8 := by
  rw [flagsBase, BitVec.and_assoc]
  exact BitVec.and_zero

/-! ### Issue of a DISPATCH -/

/-- The check fails (R191). -/
theorem startDispatch_of_range {s : State} (h : s.cfg.bufSize < s.dlen.toNat) :
    startDispatch s = finish s.cfg.eRange s := by
  rw [startDispatch, if_pos h]

/-- The check passes: the command is accepted (R191, R241). -/
theorem startDispatch_of_legal {s : State} (h : s.dlen.toNat ≤ s.cfg.bufSize) :
    startDispatch s = { s with eng := .dWalk, bi := 0, slot := 0, cnt := 0#4, q := [] } := by
  rw [startDispatch, if_neg (Nat.not_lt.mpr h)]

/-! ### One slot visited -/

theorem visitSymbol_endChar {sym : Sym} (s : State) (h : sym = symEndChar) :
    visitSymbol sym s = { s with cnt := countEndChar s.cnt } := by
  simp [visitSymbol, h]

theorem visitSymbol_nul {sym : Sym} (s : State) (h : sym = symNul) : visitSymbol sym s = s := by
  subst h; rfl

theorem visitSymbol_sound {sym : Sym} (s : State) (h : sym ≠ symEndChar) (h' : sym ≠ symNul) :
    visitSymbol sym s =
      { s with q := s.q ++ flushEvents s ++ [soundEvent s.base sym, silenceEvent s.cfg s.base .intra], cnt := 0#4 } := by
  simp [visitSymbol, h, h']

/-- What one visit can do (R193 to R197): count, nothing, or queue a sound with its flush and its INTRA. -/
theorem visitSymbol_cases (sym : Sym) (s : State) :
    (sym = symEndChar ∧ visitSymbol sym s = { s with cnt := countEndChar s.cnt }) ∨
    (sym = symNul ∧ visitSymbol sym s = s) ∨
    (sym ≠ symEndChar ∧ sym ≠ symNul ∧ visitSymbol sym s =
      { s with q := s.q ++ flushEvents s ++ [soundEvent s.base sym, silenceEvent s.cfg s.base .intra], cnt := 0#4 }) := by
  by_cases h : sym = symEndChar
  · exact .inl ⟨h, visitSymbol_endChar s h⟩
  · by_cases h' : sym = symNul
    · exact .inr (.inl ⟨h', visitSymbol_nul s h'⟩)
    · exact .inr (.inr ⟨h, h', visitSymbol_sound s h h'⟩)

/-- A visit queues at most three events, and changes only the queue and the count (R42, R209). -/
theorem visitSymbol_eq (sym : Sym) (s : State) :
    ∃ q cnt, visitSymbol sym s = { s with q := q, cnt := cnt } ∧ q.length ≤ s.q.length + 3 ∧
      (cnt ≠ 0#4 → q = s.q) := by
  have hl := length_flushEvents s
  rcases visitSymbol_cases sym s with ⟨_, h⟩ | ⟨_, h⟩ | ⟨_, _, h⟩
  · exact ⟨s.q, countEndChar s.cnt, h, by omega, fun _ => rfl⟩
  · exact ⟨s.q, s.cnt, h, by omega, fun _ => rfl⟩
  · refine ⟨_, _, h, ?_, fun hc => absurd rfl hc⟩
    simp only [List.length_append, List.length_cons, List.length_nil]
    omega

/-! ### The cursor -/

/-- The cursor moves one slot on, across the byte's end at slot 3 (R193). -/
theorem advanceSlot_position (s : State) :
    4 * (advanceSlot s).bi + (advanceSlot s).slot.val = 4 * s.bi + s.slot.val + 1 := by
  by_cases h : s.slot = 3
  · simp [advanceSlot, h]; omega
  · have h4 : s.slot.val + 1 < 4 := by
      have := s.slot.isLt
      have : s.slot.val ≠ 3 := fun hv => h (Fin.ext hv)
      omega
    simp only [advanceSlot, h, if_false, Fin.val_add, Fin.val_one, Nat.mod_eq_of_lt h4]
    omega

theorem advanceSlot_eq (s : State) : ∃ bi slot, advanceSlot s = { s with bi := bi, slot := slot } := by
  by_cases h : s.slot = 3
  · exact ⟨s.bi + 1, 0, by simp [advanceSlot, h]⟩
  · exact ⟨s.bi, s.slot + 1, by simp [advanceSlot, h]⟩

/-! ### The walk's outcome -/

theorem toEmitOrWalk_of_nil {s : State} (h : s.q = []) :
    toEmitOrWalk s = { s with eng := if s.allVisited then .dFin else .dWalk } := by
  simp [toEmitOrWalk, h]

theorem toEmitOrWalk_of_cons {s : State} {e : Event} {es : List Event} (h : s.q = e :: es) :
    toEmitOrWalk s = present e { s with eng := .dEmit } := by
  simp [toEmitOrWalk, h]

/-- What a walk step can do (R209, R37): only the last flush, a fault at a byte nothing has written, or a visit. -/
theorem walkStep_cases {s : State} {m : Micro State} (h : walkStep s = m) :
    (s.allVisited = true ∧ m = .ok (toEmitOrWalk (finalFlush s))) ∨
    (s.allVisited = false ∧ s.slot = 0 ∧ s.buf.read s.bi = none ∧ m = .fault .unwrittenRead) ∨
    (s.allVisited = false ∧ ∃ v, (s.slot = 0 → s.buf.read s.bi = some v) ∧ (s.slot ≠ 0 → s.b = v) ∧
      m = .ok (toEmitOrWalk (finalFlush (advanceSlot (visitSymbol (slotOf v s.slot.val) { s with b := v }))))) := by
  subst h
  cases ha : s.allVisited with
  | true => exact .inl ⟨rfl, by simp [walkStep, ha]⟩
  | false =>
    by_cases hs : s.slot = 0
    · cases hr : s.buf.read s.bi with
      | none =>
        exact .inr (.inl ⟨rfl, hs, rfl, by simp [walkStep, ha, currentByte, hs, readBuf_of_none hr]⟩)
      | some v =>
        exact .inr (.inr ⟨rfl, v, fun _ => rfl, fun h => absurd hs h, by
          simp [walkStep, ha, currentByte, hs, readBuf_of_some hr]⟩)
    · exact .inr (.inr ⟨rfl, s.b, fun h => absurd h hs, fun _ => rfl, by simp [walkStep, ha, currentByte, hs]⟩)

/-- What the collaborator's step can do (R209, R212, R213). -/
theorem acceptEvent_cases (s : State) :
    ((s.evValid = false ∨ s.q = []) ∧ acceptEvent s = s) ∨
    (∃ e, s.evValid = true ∧ s.q = [e] ∧ acceptEvent s =
      withdraw { s with delivered := s.delivered ++ [e], q := [], eng := if s.allVisited then .dFin else .dWalk }) ∨
    (∃ e e' es, s.evValid = true ∧ s.q = e :: e' :: es ∧ acceptEvent s =
      present e' { s with delivered := s.delivered ++ [e], q := e' :: es }) := by
  cases hv : s.evValid with
  | false => exact .inl ⟨.inl rfl, by simp [acceptEvent, hv]⟩
  | true =>
    match hq : s.q with
    | [] => exact .inl ⟨.inr rfl, by simp [acceptEvent, hv, hq]⟩
    | [e] => exact .inr (.inl ⟨e, rfl, rfl, by simp [acceptEvent, hv, hq]⟩)
    | e :: e' :: es => exact .inr (.inr ⟨e, e', es, rfl, rfl, by simp [acceptEvent, hv, hq]⟩)

end Sys2Proof.Machine
end

