-- ==== Sys2Proof/Laws/Encode.lean ====
section
/-! SUPPORT. The laws of the encoder: what an append does to the state, and what each engine step can answer. -/

namespace Sys2Proof.Machine

/-! ### Writing a record -/

/-- The bytes `vs` written at `a` and on. -/
def Memory.writeList : Memory → Nat → List Byte → Memory
  | m, _, [] => m
  | m, a, v :: vs => Memory.writeList (m.write a v) (a + 1) vs

theorem Memory.read_writeList_before (m : Memory) {a a' : Nat} (vs : List Byte) (h : a' < a) :
    (m.writeList a vs).read a' = m.read a' := by
  induction vs generalizing m a with
  | nil => rfl
  | cons v vs ih =>
    rw [Memory.writeList, ih (m.write a v) (by omega), Memory.read_write_other m v (by omega)]

theorem Memory.read_writeList_after (m : Memory) {a a' : Nat} (vs : List Byte) (h : a + vs.length ≤ a') :
    (m.writeList a vs).read a' = m.read a' := by
  induction vs generalizing m a with
  | nil => rfl
  | cons v vs ih =>
    simp only [List.length_cons] at h
    rw [Memory.writeList, ih (m.write a v) (by omega), Memory.read_write_other m v (by omega)]

theorem Memory.read_writeList_inside (m : Memory) {a n : Nat} (vs : List Byte) (h : n < vs.length) :
    (m.writeList a vs).read (a + n) = vs[n]? := by
  induction vs generalizing m a n with
  | nil => simp at h
  | cons v vs ih =>
    rw [Memory.writeList]
    cases n with
    | zero =>
      rw [Memory.read_writeList_before _ vs (by omega)]
      exact Memory.read_write_same m a v
    | succ n =>
      have := ih (m.write a v) (a := a + 1) (n := n) (by simpa using h)
      rw [show a + (n + 1) = a + 1 + n by omega, this, List.getElem?_cons_succ]

theorem Memory.wf_writeList {m : Memory} (a : Nat) (vs : List Byte) (h : m.wf = true) : (m.writeList a vs).wf = true := by
  induction vs generalizing m a with
  | nil => exact h
  | cons v vs ih => exact ih (a + 1) (Memory.wf_write a v h)

theorem Memory.mem_writeList {m : Memory} {a : Nat} {vs : List Byte} {c : Host.Cell} (h : c ∈ m.writeList a vs) :
    (a ≤ c.1 ∧ c.1 < a + vs.length) ∨ c ∈ m := by
  induction vs generalizing m a with
  | nil => exact .inr h
  | cons v vs ih =>
    simp only [List.length_cons]
    rcases ih h with hc | hc
    · exact .inl ⟨by omega, by omega⟩
    · rcases Memory.mem_write hc with hc | hc
      · subst hc; exact .inl ⟨Nat.le_refl a, by simp⟩
      · exact .inr hc

/-- A record that ends within the capacity is written whole, and the cursor moves past it (R146). -/
theorem putRecord_of_fits {vs : List Byte} {s : State} (h : s.p + vs.length ≤ s.cap.toNat) :
    putRecord vs s = .ok { s with p := s.p + vs.length, buf := s.buf.writeList s.p vs } := by
  induction vs generalizing s with
  | nil => rfl
  | cons v vs ih =>
    simp only [List.length_cons] at h
    rw [putRecord, putByte, boundedWrite_of_lt v (by omega), Micro.bind_ok, Micro.bind_ok, ih]
    · simp [writeBuf, Memory.writeList]; omega
    · simp only [writeBuf_p, writeBuf_cap]; omega

theorem appendAligned_of_not_fits {cc : Code} {limit : Nat} {s : State} (h : limit < s.p + (record cc).length) :
    appendAligned cc limit s = .ok (s, false) := by
  simp [appendAligned, h]

/-- The append of a record that fits below a limit within the capacity (R146, R147). -/
theorem appendAligned_of_fits {cc : Code} {limit : Nat} {s : State} (h : s.p + (record cc).length ≤ limit)
    (hl : limit ≤ s.cap.toNat) :
    appendAligned cc limit s =
      .ok ({ s with p := s.p + (record cc).length, buf := s.buf.writeList s.p (record cc) }, true) := by
  rw [appendAligned, if_neg (by omega), putRecord_of_fits (by omega), Micro.bind_ok]

/-! ### Depositing a run -/

/-- The groups `gs` ORed in at group positions `k` and on. -/
def Memory.orList : Memory → Nat → List Sym → Memory
  | m, _, [] => m
  | m, k, g :: gs => Memory.orList (m.write (k / 4) ((m.read (k / 4)).getD 0#8 ||| placeGroup g (k % 4))) (k + 1) gs

theorem Memory.read_orList_before (m : Memory) {k a : Nat} (gs : List Sym) (h : a < k / 4) :
    (m.orList k gs).read a = m.read a := by
  induction gs generalizing m k with
  | nil => rfl
  | cons g gs ih => rw [Memory.orList, ih _ (by omega), Memory.read_write_other _ _ (by omega)]

theorem Memory.read_orList_after (m : Memory) {k a : Nat} (gs : List Sym) (h : (k + gs.length + 3) / 4 ≤ a) :
    (m.orList k gs).read a = m.read a := by
  induction gs generalizing m k with
  | nil => rfl
  | cons g gs ih =>
    simp only [List.length_cons] at h
    rw [Memory.orList, ih _ (by omega), Memory.read_write_other _ _ (by omega)]

theorem Memory.isSome_orList {m : Memory} {k a : Nat} (gs : List Sym) (h : (m.read a).isSome = true) :
    ((m.orList k gs).read a).isSome = true := by
  induction gs generalizing m k with
  | nil => exact h
  | cons g gs ih =>
    rw [Memory.orList]
    refine ih ?_
    rw [Memory.read_write]
    split
    · rfl
    · exact h

theorem Memory.wf_orList {m : Memory} (k : Nat) (gs : List Sym) (h : m.wf = true) : (m.orList k gs).wf = true := by
  induction gs generalizing m k with
  | nil => exact h
  | cons g gs ih => exact ih (k + 1) (Memory.wf_write _ _ h)

theorem Memory.mem_orList {m : Memory} {k : Nat} {gs : List Sym} {c : Host.Cell} (h : c ∈ m.orList k gs) :
    c.1 < (k + gs.length + 3) / 4 ∨ c ∈ m := by
  induction gs generalizing m k with
  | nil => exact .inr h
  | cons g gs ih =>
    simp only [List.length_cons]
    rcases ih h with hc | hc
    · exact .inl (by omega)
    · rcases Memory.mem_write hc with hc | hc
      · subst hc; exact .inl (by simp only; omega)
      · exact .inr hc

/-- A run that ends within the capacity, over written bytes, is deposited whole, and the cursor moves past it (R153). -/
theorem putRun_of_fits {gs : List Sym} {s : State} (h : s.k + gs.length ≤ 4 * s.cap.toNat) (hb : bufCleared s) :
    putRun gs s = .ok { s with k := s.k + gs.length, buf := s.buf.orList s.k gs } := by
  induction gs generalizing s with
  | nil => rfl
  | cons g gs ih =>
    simp only [List.length_cons] at h
    have hk : s.k / 4 < s.cap.toNat := by omega
    obtain ⟨v, hv⟩ := Option.isSome_iff_exists.mp (hb _ hk)
    rw [putRun, putGroup, boundedGroup_of_lt g hk hv, Micro.bind_ok, Micro.bind_ok, ih]
    · simp [writeBuf, Memory.orList, hv]; omega
    · simp only [writeBuf_k, writeBuf_cap]; omega
    · intro a ha
      simp only [writeBuf_buf, Memory.read_write]
      split
      · rfl
      · exact hb a ha

theorem appendCompact_of_not_fits {cc : Code} {limit : Nat} {s : State} (h : 4 * limit < s.k + (run s.cfg cc).length) :
    appendCompact cc limit s = .ok (s, false) := by
  simp [appendCompact, h]

/-- The append of a run that fits below a limit within the capacity (R153, R155). -/
theorem appendCompact_of_fits {cc : Code} {limit : Nat} {s : State} (h : s.k + (run s.cfg cc).length ≤ 4 * limit)
    (hl : limit ≤ s.cap.toNat) (hb : bufCleared s) :
    appendCompact cc limit s =
      .ok ({ s with k := s.k + (run s.cfg cc).length, buf := s.buf.orList s.k (run s.cfg cc) }, true) := by
  rw [appendCompact, if_neg (by omega), putRun_of_fits (by omega) hb, Micro.bind_ok]

theorem mode_cases (s : State) : s.mode = .aligned ∨ s.mode = .compact := by
  cases s.mode <;> simp

theorem append_of_aligned (cc : Code) (limit : Nat) {s : State} (h : s.mode = .aligned) :
    append cc limit s = appendAligned cc limit s := by
  simp [append, h]

theorem append_of_compact (cc : Code) (limit : Nat) {s : State} (h : s.mode = .compact) :
    append cc limit s = appendCompact cc limit s := by
  simp [append, h]

/-- What an append can do in a state whose buffer has been cleared, with a limit within the capacity: nothing, with the
answer false; or one record or run, with its cursor moved. -/
theorem append_cases {cc : Code} {limit : Nat} {s : State} {m : Micro (State × Bool)} (h : append cc limit s = m)
    (hl : limit ≤ s.cap.toNat) (hb : bufCleared s) :
    m = .ok (s, false) ∨
    (s.mode = .aligned ∧ s.p + (record cc).length ≤ limit ∧
      m = .ok ({ s with p := s.p + (record cc).length, buf := s.buf.writeList s.p (record cc) }, true)) ∨
    (s.mode = .compact ∧ s.k + (run s.cfg cc).length ≤ 4 * limit ∧
      m = .ok ({ s with k := s.k + (run s.cfg cc).length, buf := s.buf.orList s.k (run s.cfg cc) }, true)) := by
  subst h
  rcases mode_cases s with hm | hm
  · rw [append_of_aligned cc limit hm]
    by_cases hf : limit < s.p + (record cc).length
    · exact .inl (appendAligned_of_not_fits hf)
    · exact .inr (.inl ⟨hm, by omega, appendAligned_of_fits (Nat.le_of_not_lt hf) hl⟩)
  · rw [append_of_compact cc limit hm]
    by_cases hf : 4 * limit < s.k + (run s.cfg cc).length
    · exact .inl (appendCompact_of_not_fits hf)
    · exact .inr (.inr ⟨hm, by omega, appendCompact_of_fits (Nat.le_of_not_lt hf) hl hb⟩)

/-- An append keeps a cleared buffer cleared. -/
theorem bufCleared_append {cc : Code} {limit : Nat} {s : State} {r : State × Bool} (h : append cc limit s = .ok r)
    (hl : limit ≤ s.cap.toNat) (hb : bufCleared s) : bufCleared r.1 := by
  rcases append_cases h hl hb with h | ⟨_, hf, h⟩ | ⟨_, hf, h⟩ <;> cases h
  · exact hb
  · intro a ha
    by_cases h1 : a < s.p
    · simpa only [Memory.read_writeList_before _ _ h1] using hb a ha
    · by_cases h2 : s.p + (record cc).length ≤ a
      · simpa only [Memory.read_writeList_after _ _ h2] using hb a ha
      · obtain ⟨n, rfl⟩ : ∃ n, a = s.p + n := ⟨a - s.p, by omega⟩
        simp only [Memory.read_writeList_inside _ (record cc) (show n < (record cc).length by omega)]
        simp [show n < (record cc).length by omega]
  · intro a ha
    exact Memory.isSome_orList _ (hb a ha)

/-! ### Records and runs -/

/-- The record of END_STOP is FF FF (R146). -/
theorem record_endStop : record endStop = [0xFF#8, 0xFF#8] := by decide

/-- The run of END_STOP is eight END_CHARs, whichever separator test is set (R151, R152). -/
theorem run_endStop (c : Config) : run c endStop = List.replicate 8 symEndChar := by
  cases h : c.compactSepTest <;> simp only [run, sepCompact, h] <;> decide

/-! ### Issue of an ENCODE -/

/-- The first check fails (R141). -/
theorem startEncode_of_capacity (mode : Mode) {s : State} (h : s.cap.toNat < 2) :
    startEncode mode s = finish s.cfg.eCapacity s := by
  rw [startEncode, if_pos (show s.cap.toNat < threshold from h)]

/-- The first check passes and the second fails (R141). -/
theorem startEncode_of_range (mode : Mode) {s : State} (h : 2 ≤ s.cap.toNat)
    (h' : s.cfg.bufSize < s.cap.toNat ∨ s.cfg.textSize < s.tlen.toNat) :
    startEncode mode s = finish s.cfg.eRange s := by
  rw [startEncode, if_neg (show ¬s.cap.toNat < threshold from Nat.not_lt.mpr h), if_pos h']

/-- Both checks pass: the command is accepted (R141, R241). -/
theorem startEncode_of_legal (mode : Mode) {s : State} (h : 2 ≤ s.cap.toNat) (hb : s.cap.toNat ≤ s.cfg.bufSize)
    (ht : s.tlen.toNat ≤ s.cfg.textSize) :
    startEncode mode s = { s with mode := mode, eng := .eClear, j := 0 } := by
  rw [startEncode, if_neg (show ¬s.cap.toNat < threshold from Nat.not_lt.mpr h), if_neg (by omega)]

/-- What ENCODE's part of the issue can do (R141, R241). -/
theorem startEncode_cases (mode : Mode) (s : State) :
    (s.cap.toNat < 2 ∧ startEncode mode s = finish s.cfg.eCapacity s) ∨
    (2 ≤ s.cap.toNat ∧ (s.cfg.bufSize < s.cap.toNat ∨ s.cfg.textSize < s.tlen.toNat) ∧
      startEncode mode s = finish s.cfg.eRange s) ∨
    (2 ≤ s.cap.toNat ∧ s.cap.toNat ≤ s.cfg.bufSize ∧ s.tlen.toNat ≤ s.cfg.textSize ∧
      startEncode mode s = { s with mode := mode, eng := .eClear, j := 0 }) := by
  by_cases h1 : s.cap.toNat < 2
  · exact .inl ⟨h1, startEncode_of_capacity mode h1⟩
  · have h1' := Nat.le_of_not_lt h1
    by_cases h2 : s.cfg.bufSize < s.cap.toNat ∨ s.cfg.textSize < s.tlen.toNat
    · exact .inr (.inl ⟨h1', h2, startEncode_of_range mode h1' h2⟩)
    · exact .inr (.inr ⟨h1', by omega, by omega, startEncode_of_legal mode h1' (by omega) (by omega)⟩)

/-! ### Engine steps -/

/-- What E_CLEAR can do below the capacity (R143, R161). -/
theorem clearStep_of_lt {s : State} (h : s.j < s.cap.toNat) :
    clearStep s =
      if s.j + 1 < s.cap.toNat then .ok { writeBuf s.j 0#8 s with j := s.j + 1 }
      else .ok (toScanOrTerm (resetCursors { writeBuf s.j 0#8 s with j := 0 })) := by
  rw [clearStep, boundedWrite_of_lt 0#8 h, Micro.bind_ok]
  rfl

/-- A step of the main loop over a written TEXT byte whose class resolves to no code (R133, R145). -/
theorem scanStep_of_ignored {s : State} {v : Byte} (hs : s.scanning = true) (hr : s.text.read s.i = some v)
    (hc : resolve s.cfg (classify v) = .ok none) :
    scanStep s = .ok (toScanOrTerm { s with i := s.i + 1 }) := by
  simp [scanStep, hs, readText_of_some hr, hc]

/-- A step of the main loop over a written TEXT byte whose class resolves to a code (R145, R150). -/
theorem scanStep_of_code {s : State} {v : Byte} {cc : Code} (hs : s.scanning = true) (hr : s.text.read s.i = some v)
    (hc : resolve s.cfg (classify v) = .ok (some cc)) :
    scanStep s =
      (append cc (effective s) { s with i := s.i + 1, cc := cc }).bind fun r =>
        .ok (toScanOrTerm (haltUnless r.2 r.1)) := by
  simp [scanStep, hs, readText_of_some hr, hc]

/-- A step of the main loop at a TEXT byte nothing has written (R37). -/
theorem scanStep_of_unwritten {s : State} (hs : s.scanning = true) (hr : s.text.read s.i = none) :
    scanStep s = .fault .unwrittenRead := by
  simp [scanStep, hs, readText_of_none hr]

end Sys2Proof.Machine
end

