-- ==== Sys2Proof/Laws/Agents.lean ====
section
/-! SUPPORT. What each agent's step, and the machine's step, can answer. -/

namespace Sys2Proof.Machine

/-! ### The host -/

/-- A host read that answers a next state has only recorded its data, and drawn at most one free value (R68). -/
theorem hostRead_cases {addr : BitVec 18} {width : Nat} {s t : State} (h : hostRead addr width s = .next t) :
    ∃ v n, t = { s with reads := s.reads ++ [v], freeIdx := n } := by
  have hw : ∀ (m : Memory) (size a : Nat), ∃ v n, windowRead m size a s = { s with reads := s.reads ++ [v], freeIdx := n } := by
    intro m size a
    simp only [windowRead]
    split
    · exact ⟨_, _, rfl⟩
    · split
      · exact ⟨_, _, rfl⟩
      · exact ⟨_, _, rfl⟩
  have ha : ∀ (e : State → State), windowAccess width e s = .next t → t = e s := by
    intro e he
    simp only [windowAccess] at he
    split at he
    · cases he
    · split at he
      · cases he
      · cases he; rfl
  simp only [hostRead] at h
  split at h
  · split at h
    · split at h
      · cases h; exact ⟨_, _, rfl⟩
      · cases h; exact ⟨_, _, rfl⟩
    · cases h
  · rw [ha _ h]; exact hw _ _ _
  · rw [ha _ h]; exact hw _ _ _
  · cases h; exact ⟨_, _, rfl⟩

/-- What a CMD write can do (R241, R242, R243): run the command it decodes to, or the rejection of an illegal word. -/
theorem writeCmd_cases (w : Word) (s : State) :
    (∃ i, decodeCmd w = .ok i ∧ writeCmd w s = exec i s) ∨
    (decodeCmd w = .error .reservedBits ∧ writeCmd w s = illegalCommand s) := by
  cases h : decodeCmd w with
  | ok i => exact .inl ⟨i, rfl, by simp [writeCmd, h]⟩
  | error e => cases e; exact .inr ⟨rfl, by simp [writeCmd, h]⟩

/-- What a host write that answers a next state can do (R28 to R34, R60, R61, R73): a command issue, a register field,
one byte of a window while idle, or nothing. -/
theorem hostWrite_cases {addr : BitVec 18} {width : Nat} {d : Word} {s t : State}
    (h : hostWrite addr width d s = .next t) :
    writeCmd d s = .next t ∨ (∃ r, t = writeReg d s r) ∨
    (s.busy = false ∧ ∃ a, a < s.cfg.textSize ∧ t = { s with text := s.text.write a (d.setWidth 8) }) ∨
    (s.busy = false ∧ ∃ a, a < s.cfg.bufSize ∧ t = { s with buf := s.buf.write a (d.setWidth 8) }) ∨ t = s := by
  have ha : ∀ (e : State → State), windowAccess width e s = .next t → s.busy = false ∧ t = e s := by
    intro e he
    simp only [windowAccess] at he
    split at he
    · cases he
    · split at he
      · cases he
      · next hb => cases he; exact ⟨by simpa using hb, rfl⟩
  simp only [hostWrite] at h
  split at h
  · split at h
    · split at h
      · exact .inl h
      · cases h; exact .inr (.inl ⟨_, rfl⟩)
      · cases h; exact .inr (.inr (.inr (.inr rfl)))
    · cases h
  · next a _ =>
    obtain ⟨hb, ht⟩ := ha _ h
    simp only [writeTextByte] at ht
    split at ht
    · next hlt => exact .inr (.inr (.inl ⟨hb, a, hlt, ht⟩))
    · exact .inr (.inr (.inr (.inr ht)))
  · next a _ =>
    obtain ⟨hb, ht⟩ := ha _ h
    simp only [writeBufByte] at ht
    split at ht
    · next hlt => exact .inr (.inr (.inr (.inl ⟨hb, a, hlt, ht⟩)))
    · exact .inr (.inr (.inr (.inr ht)))
  · cases h; exact .inr (.inr (.inr (.inr rfl)))

/-- `exec` of a command is its issue (R241). -/
theorem exec_eq_issue (i : Instr) (s : State) :
    exec i s = issue i.op
      (match i with
       | .encodeAligned => startEncode .aligned
       | .encodeCompact => startEncode .compact
       | .dispatch => startDispatch
       | .decode => startDecode) s := by
  cases i <;> rfl

/-! ### The machine's step -/

theorem step_of_idle_schedule {s : State} (hc : s.cfg.wellFormed = true) (h : s.schedule = []) :
    step s = coreStep s := by
  simp [step, agentStep, hc, h]

theorem step_of_scheduled {s : State} {a : Action} {rest : List Action} (hc : s.cfg.wellFormed = true)
    (h : s.schedule = a :: rest) : step s = act a { s with schedule := rest } := by
  simp [step, agentStep, hc, h]

/-- A step under legal parameters is one of one agent: the core's when nothing is scheduled, else the scheduled one. -/
theorem step_cases {s : State} (hc : s.cfg.wellFormed = true) :
    (s.schedule = [] ∧ step s = coreStep s) ∨
    (∃ a rest, s.schedule = a :: rest ∧ step s = act a { s with schedule := rest }) := by
  cases h : s.schedule with
  | nil => exact .inl ⟨rfl, step_of_idle_schedule hc h⟩
  | cons a rest => exact .inr ⟨a, rest, rfl, step_of_scheduled hc h⟩

/-- A block whose parameters are illegal takes no step (R102, R250). -/
theorem step_of_illegal {s : State} (hc : s.cfg.wellFormed = false) :
    step s = if s.cfg.romOk then .refused .badConfig else .refused .badRom := by
  simp [step, agentStep, hc]

/-- A command written to CMD, idle or busy, is `exec` of what its word decodes to (R80, R241). -/
theorem act_writeCmd {w : Word} {i : Instr} (s : State) (h : decodeCmd w = .ok i) :
    act (.host (.write 0x000#18 32 w)) s = exec i s := by
  have hr : region 0x000#18 = .register 0 := by decide
  simp [act, hostAccess, hostWrite, hr, registerAccessOk, hostReg, writeCmd, h]

end Sys2Proof.Machine
end

