-- ==== Sys2Proof/Laws/Host.lean ====
section
/-! SUPPORT. The laws of the legal parameters (R9) and of the host address map (R60). -/

namespace Sys2Proof.Machine

/-! ### Legal parameters -/

/-- The sizes of a legal configuration (R9). -/
theorem sizes_of_wellFormed {c : Config} (h : c.wellFormed = true) :
    8 ≤ c.addrW ∧ c.addrW ≤ 16 ∧ 1 ≤ c.textSize ∧ c.textSize ≤ 2 ^ c.addrW ∧ 2 ≤ c.bufSize ∧ c.bufSize ≤ 2 ^ c.addrW := by
  simp only [Config.wellFormed, Config.sizesOk, Bool.and_eq_true, decide_eq_true_eq] at h
  tauto

/-- Both memories fit their windows (R9, R60). -/
theorem sizes_le_window {c : Config} (h : c.wellFormed = true) : c.textSize ≤ 0x10000 ∧ c.bufSize ≤ 0x10000 := by
  obtain ⟨_, ha, _, ht, _, hb⟩ := sizes_of_wellFormed h
  have hp : 2 ^ c.addrW ≤ 2 ^ 16 := Nat.pow_le_pow_right (by decide) ha
  exact ⟨Nat.le_trans ht hp, Nat.le_trans hb hp⟩

/-- The error codes of a legal configuration are negative (R9). -/
theorem errors_of_wellFormed {c : Config} (h : c.wellFormed = true) :
    c.eCapacity.msb = true ∧ c.eRange.msb = true ∧ c.eIllegal.msb = true ∧ c.eOverrun.msb = true := by
  simp only [Config.wellFormed, Config.errorsOk, Bool.and_eq_true] at h
  tauto

/-- The ROMs of a legal configuration (R9, R102). -/
theorem rom_of_wellFormed {c : Config} (h : c.wellFormed = true) : c.romOk = true := by
  simp only [Config.wellFormed, Bool.and_eq_true] at h
  tauto

/-! ### The address map -/

theorem region_of_register {addr : BitVec 18} (h : addr.toNat < 0x100) : region addr = .register addr.toNat := by
  simp only [region]
  rw [if_pos (by omega)]

theorem region_of_text {addr : BitVec 18} (h : 0x10000 ≤ addr.toNat) (h' : addr.toNat < 0x20000) :
    region addr = .text (addr.toNat - 0x10000) := by
  simp only [region]
  rw [if_neg (by omega), if_neg (by omega), if_pos (by omega)]

theorem region_of_buf {addr : BitVec 18} (h : 0x20000 ≤ addr.toNat) (h' : addr.toNat < 0x30000) :
    region addr = .buf (addr.toNat - 0x20000) := by
  simp only [region]
  rw [if_neg (by omega), if_neg (by omega), if_neg (by omega), if_pos (by omega)]

theorem region_of_reserved {addr : BitVec 18}
    (h : (0x100 ≤ addr.toNat ∧ addr.toNat < 0x10000) ∨ 0x30000 ≤ addr.toNat) : region addr = .reserved := by
  simp only [region]
  rcases h with h | h
  · rw [if_neg (by omega), if_pos (by omega)]
  · rw [if_neg (by omega), if_neg (by omega), if_neg (by omega), if_neg (by omega)]

/-- The address of TEXT[a] names TEXT[a] (R60). -/
theorem region_wbText {a : Nat} (h : a < 0x10000) : region (BitVec.ofNat 18 (0x10000 + a)) = .text a := by
  have hn : (BitVec.ofNat 18 (0x10000 + a)).toNat = 0x10000 + a := by
    rw [BitVec.toNat_ofNat]
    omega
  rw [region_of_text (by omega) (by omega), hn, Nat.add_sub_cancel_left]

/-- The address of BUF[a] names BUF[a] (R60). -/
theorem region_wbBuf {a : Nat} (h : a < 0x10000) : region (BitVec.ofNat 18 (0x20000 + a)) = .buf a := by
  have hn : (BitVec.ofNat 18 (0x20000 + a)).toNat = 0x20000 + a := by
    rw [BitVec.toNat_ofNat]
    omega
  rw [region_of_buf (by omega) (by omega), hn, Nat.add_sub_cancel_left]

/-- Offsets 0x020 and above name no register (R26, R61). -/
theorem hostReg_of_reserved {offset : Nat} (h : 0x20 ≤ offset) : hostReg offset = none := by
  simp only [hostReg]
  split <;> first | omega | rfl

/-- A 32-bit CMD write reaches `writeCmd` (R80, R241). -/
theorem act_writeCmd_word (w : Word) (s : State) : act (.host (.write 0x000#18 32 w)) s = writeCmd w s := by
  have hr : region 0x000#18 = .register 0 := by decide
  simp [act, hostAccess, hostWrite, hr, registerAccessOk, hostReg]

/-! ### The engine between its loops -/

/-- The engine is busy between E_CLEAR and E_TERM (R40, R161). -/
theorem busy_toScanOrTerm (s : State) : (toScanOrTerm s).busy = true := by
  simp only [toScanOrTerm, State.busy]
  split <;> simp

end Sys2Proof.Machine
end

