-- ==== Sys2Proof/Laws/PerInstr.lean ====
section
/-! SUPPORT. What holds of every instruction as syntax, one lemma per constructor. -/

namespace Sys2Proof.Laws.EncodedWord

/-- The word of a command is well-formed as R80 and R84 have it: RSVD is zero and OP is the command's (R81). -/
def Statement (i : Instr) : Prop :=
  i.wellFormed = true ∧ rsvdField (encode i) = 0#30 ∧ opField (encode i) = i.op ∧ (encode i).toNat < 4

theorem encodeAligned : Statement .encodeAligned := by unfold Statement; decide

theorem encodeCompact : Statement .encodeCompact := by unfold Statement; decide

theorem dispatch : Statement .dispatch := by unfold Statement; decide

theorem decode : Statement .decode := by unfold Statement; decide

end Sys2Proof.Laws.EncodedWord
end

