-- ==== Sys2Proof/Laws/Rom.lean ====
section
/-! SUPPORT. The default ROM tables against the Morse patterns they are built from (R104, R105), and R108's
properties of the default ROM. -/

namespace Sys2Proof.Machine

/-- A pattern of marks written as dots (`false`) and dashes (`true`): short names for the tables below. -/
abbrev dot : Mark := false

abbrev dash : Mark := true

/-- The patterns of A to M (R104). -/
def patternsAtoM : List (List Mark) :=
  [[dot, dash], [dash, dot, dot, dot], [dash, dot, dash, dot], [dash, dot, dot], [dot], [dot, dot, dash, dot],
   [dash, dash, dot], [dot, dot, dot, dot], [dot, dot], [dot, dash, dash, dash], [dash, dot, dash],
   [dot, dash, dot, dot], [dash, dash]]

/-- The patterns of N to Z (R104). -/
def patternsNtoZ : List (List Mark) :=
  [[dash, dot], [dash, dash, dash], [dot, dash, dash, dot], [dash, dash, dot, dash], [dot, dash, dot],
   [dot, dot, dot], [dash], [dot, dot, dash], [dot, dot, dot, dash], [dot, dash, dash], [dash, dot, dot, dash],
   [dash, dot, dash, dash], [dash, dash, dot, dot]]

/-- The patterns of 0 to 9 (R105). -/
def patternsDigits : List (List Mark) :=
  [[dash, dash, dash, dash, dash], [dot, dash, dash, dash, dash], [dot, dot, dash, dash, dash],
   [dot, dot, dot, dash, dash], [dot, dot, dot, dot, dash], [dot, dot, dot, dot, dot], [dash, dot, dot, dot, dot],
   [dash, dash, dot, dot, dot], [dash, dash, dash, dot, dot], [dash, dash, dash, dash, dot]]

/-- The default LETTER_ROM holds R102's entries of R104's patterns. -/
theorem letterRom_eq_romEntry : defaultLetterRom = (patternsAtoM ++ patternsNtoZ).map romEntry := by decide

/-- The default DIGIT_ROM holds R102's entries of R105's patterns. -/
theorem digitRom_eq_romEntry : defaultDigitRom = patternsDigits.map romEntry := by decide

/-- Every default configuration check passes (R9). -/
theorem defaultConfig_wellFormed : defaultConfig.wellFormed = true := by decide

/-- The lowest group of a default entry is DIT or DAH (R108). -/
theorem defaultRom_lowest_group :
    (defaultLetterRom ++ defaultDigitRom).all (fun cc => groupOf cc 0 == symDit || groupOf cc 0 == symDah) = true := by
  decide

end Sys2Proof.Machine
end

