-- ==== Sys2Proof/Tests/Slice0.lean ====
section
/-! SUPPORT. Tests and witnesses: ill-formed parameters refused, command words bit by bit, single steps with the results
of spec/95_test_vectors.md and of the rules' own examples, and one theorem per obligation with hypotheses that
shows a concrete state meeting them. -/

namespace Sys2Proof.Machine

/-! ### Helpers -/

/-- The outcome is a next state with a property. -/
def nextWith (o : Host.Outcome State Fault Refusal) (p : State → Bool) : Bool :=
  match o with
  | .next s => p s
  | .fault _ => false
  | .refused _ => false

theorem exists_of_nextWith {o : Host.Outcome State Fault Refusal} {p : State → Bool} (h : nextWith o p = true) :
    ∃ s, o = .next s ∧ p s = true := by
  cases o with
  | next s => exact ⟨s, rfl, h⟩
  | fault _ => cases h
  | refused _ => cases h

/-- The outcome is a fault. -/
def faultIs (o : Host.Outcome State Fault Refusal) (f : Fault) : Bool :=
  match o with
  | .next _ => false
  | .fault e => e == f
  | .refused _ => false

/-- The outcome is a refusal. -/
def refusalIs (o : Host.Outcome State Fault Refusal) (r : Refusal) : Bool :=
  match o with
  | .next _ => false
  | .fault _ => false
  | .refused e => e == r

/-- BUF from address 0 on reads as the given bytes. -/
def bufStarts (s : State) (bytes : List Byte) : Bool :=
  (List.range bytes.length).all fun a => s.buf.read a == bytes[a]?

theorem holdsBuf_of_bufStarts {s : State} {bytes : List Byte} (h : bufStarts s bytes = true) : holdsBuf s bytes := by
  intro a ha
  simp only [bufStarts, List.all_eq_true, List.mem_range, beq_iff_eq] at h
  exact h a ha

/-- The text "E" and the bytes 01 FF, with operands for every command. -/
def tIdle : State :=
  { State.reset with
    textLen := 1, capacity := 4, length := 2, flags := 0x40#8, text := [(0, 0x45#8)], buf := [(0, 0x01#8), (1, 0xFF#8)] }

/-- E_CLEAR of an ENCODE of "E". -/
def tClear : State := { tIdle with eng := .eClear, tlen := 1, cap := 4, dlen := 2, base := 0x40#8 }

/-- E_SCAN of an ENCODE of one text byte in a mode. -/
def tScan (mode : Mode) (v : Byte) : State :=
  { tClear with
    eng := .eScan, mode := mode, op := if mode = .aligned then 0 else 1, text := [(0, v)]
    buf := [(0, 0#8), (1, 0#8), (2, 0#8), (3, 0#8)] }

/-- E_FIN of an ENCODE_ALIGNED of "E". -/
def tFin : State :=
  { tClear with eng := .eFin, i := 1, p := 4, buf := [(0, 0x0D#8), (1, 0x03#8), (2, 0xFF#8), (3, 0xFF#8)] }

/-- D_WALK at the start of a DISPATCH of 01 FF. -/
def tWalk : State := { tIdle with eng := .dWalk, op := 2, tlen := 1, cap := 4, dlen := 2, base := 0x40#8 }

/-- D_EMIT after the DIT in slot 0 of the byte 01. -/
def tEmit : State :=
  { tWalk with
    eng := .dEmit, slot := 1, b := 0x01#8, q := [⟨.dit, 0x40#8⟩, ⟨.silence, 0x41#8⟩]
    evValid := true, evKind := 0b01#2, evFlags := 0x40#8 }

/-- D_FIN of the DISPATCH. -/
def tDone : State := { tWalk with eng := .dFin, bi := 2, cnt := 4 }

/-! ### Well-formedness: every check refuses something -/

theorem test_default_is_legal : defaultConfig.wellFormed = true := by decide

theorem test_addrW_too_small : Config.sizesOk { defaultConfig with addrW := 7, textSize := 1, bufSize := 2 } = false := by
  decide

theorem test_addrW_too_large : Config.sizesOk { defaultConfig with addrW := 17 } = false := by decide

theorem test_textSize_zero : Config.sizesOk { defaultConfig with textSize := 0 } = false := by decide

theorem test_textSize_too_large : Config.sizesOk { defaultConfig with textSize := 65537 } = false := by decide

theorem test_bufSize_one : Config.sizesOk { defaultConfig with bufSize := 1 } = false := by decide

theorem test_bufSize_too_large : Config.sizesOk { defaultConfig with bufSize := 65537 } = false := by decide

theorem test_letterRom_short : Config.romOk { defaultConfig with letterRom := [0x0039#16] } = false := by decide

/-- A ROM entry with no END_CHAR on top (DIT DAH), one with a NUL inside, and one of 8 marks (R102). -/
theorem test_romEntry_shapes :
    romEntryShape 0x0009#16 = false ∧ romEntryShape 0x0031#16 = false ∧ romEntryShape 0x5555#16 = false ∧
    romEntryShape 0xD555#16 = true ∧ romEntryShape 0x0003#16 = false := by
  decide

theorem test_digitRom_bad_entry :
    Config.romOk { defaultConfig with digitRom := 0x0000#16 :: defaultDigitRom.tail } = false := by
  decide

/-- 0x000D is not `2^(2n) - 1` (R9). -/
theorem test_endWord_bad : Config.endWordOk { defaultConfig with endWordCode := 0x000D#16 } = false := by decide

theorem test_endWord_extremes :
    Config.endWordOk { defaultConfig with endWordCode := 0x0003#16 } = true ∧
    Config.endWordOk { defaultConfig with endWordCode := 0xFFFF#16 } = true ∧
    Config.endWordOk { defaultConfig with endWordCode := 0x0000#16 } = false := by
  decide

theorem test_space_codes_not_increasing : Config.spaceOk { defaultConfig with spaceWord := 0x9#4 } = false := by decide

theorem test_space_none_not_zero : Config.spaceOk { defaultConfig with spaceNone := 0x1#4 } = false := by decide

theorem test_error_not_negative : Config.errorsOk { defaultConfig with eRange := 0x2#32 } = false := by decide

theorem test_errors_not_distinct : Config.errorsOk { defaultConfig with eRange := 0xFFFFFFFF#32 } = false := by decide

theorem test_illegal_config_refused :
    refusalIs (step { State.reset with cfg := { defaultConfig with letterRom := [] } }) .badRom = true ∧
    refusalIs (step { State.reset with cfg := { defaultConfig with addrW := 17 } }) .badConfig = true := by
  decide

/-! ### Decoding, from R80's layout and R81's map -/

/-- RSVD (30 bits) then OP (2 bits), written out. -/
theorem test_decode_words :
    decodeCmd 0b000000000000000000000000000000_00#32 = .ok .encodeAligned ∧
    decodeCmd 0b000000000000000000000000000000_01#32 = .ok .encodeCompact ∧
    decodeCmd 0b000000000000000000000000000000_10#32 = .ok .dispatch ∧
    decodeCmd 0b000000000000000000000000000000_11#32 = .ok .decode := by
  decide

/-- A word with any bit of RSVD set is illegal (R84). -/
theorem test_decode_reserved :
    decodeCmd 0b000000000000000000000000000001_00#32 = .error .reservedBits ∧
    decodeCmd 0b100000000000000000000000000000_11#32 = .error .reservedBits := by
  decide

theorem test_decodeTableWord :
    decodeTableWord 32 0 = some .encodeAligned ∧ decodeTableWord 32 1 = some .encodeCompact ∧
    decodeTableWord 32 2 = some .dispatch ∧ decodeTableWord 32 3 = some .decode ∧ decodeTableWord 32 4 = none := by
  decide

/-- The first step after reset runs the placed command: DECODE is issued, ENCODE with CAPACITY = 0 is rejected. -/
theorem test_first_step :
    nextWith (step (State.reset.withFetchWord 32 3)) (fun t => t.eng == .xDecode) = true ∧
    nextWith (step (State.reset.withFetchWord 32 0)) (fun t => t.result == 0xFFFFFFFF#32 && !t.busy) = true := by
  decide

/-! ### ENCODE_ALIGNED -/

/-- CAPACITY = 1: E_CAPACITY at issue, STATUS = 6 (P3). -/
theorem test_encodeAligned_capacity :
    nextWith (exec .encodeAligned { tIdle with capacity := 1 })
      (fun t => statusWord t == 0x00000006#32 && t.result == 0xFFFFFFFF#32) = true := by
  decide

/-- One step of the main loop over 'E': the record 0D 03 (P4: BUF[0..1] = 0D 03). -/
theorem test_encodeAligned_scan :
    nextWith (coreStep (tScan .aligned 0x45#8))
      (fun t => bufStarts t [0x0D#8, 0x03#8, 0x00#8, 0x00#8] && t.p == 2 && t.eng == .eTerm) = true := by
  decide

/-! ### ENCODE_COMPACT -/

/-- One step of the main loop over 'E': groups 01 11 11 in slots 0 to 2 of BUF[0] (P2). -/
theorem test_encodeCompact_scan :
    nextWith (coreStep (tScan .compact 0x45#8)) (fun t => bufStarts t [0b00_11_11_01#8, 0x00#8] && t.k == 3) = true := by
  decide

/-- The terminator after the first three groups: 8 END_CHARs, groups 3 to 10 (R151). -/
theorem test_encodeCompact_term :
    nextWith (coreStep { tScan .compact 0x45#8 with
        eng := .eTerm, i := 1, k := 3, buf := [(0, 0b00_11_11_01#8), (1, 0#8), (2, 0#8), (3, 0#8)] })
      (fun t => bufStarts t [0b11_11_11_01#8, 0b11_11_11_11#8, 0b00_11_11_11#8, 0x00#8] && t.k == 11 && t.eng == .eFin) =
      true := by
  decide

/-! ### DISPATCH -/

/-- The DIT in slot 0 of 01 with FLAGS = 0x40: DIT/40 on the port, SIL/41 behind it (P5). -/
theorem test_dispatch_dit :
    nextWith (coreStep tWalk)
      (fun t => t.q == [⟨.dit, 0x40#8⟩, ⟨.silence, 0x41#8⟩] && t.evValid && t.evKind == 0b01#2 && t.evFlags == 0x40#8) =
      true := by
  decide

/-- The DAH in slot 0 of 02 after a saturated count: SIL/48 DAH/40 SIL/41 (P5). -/
theorem test_dispatch_flush :
    nextWith (coreStep { tWalk with buf := [(0, 0x02#8), (1, 0xFF#8)], cnt := 15 })
      (fun t => t.q == [⟨.silence, 0x48#8⟩, ⟨.dah, 0x40#8⟩, ⟨.silence, 0x41#8⟩]) = true := by
  decide

/-! ### DECODE, illegal words, host access -/

/-- The single step of DECODE: RESULT = 0, STATUS = 2 (P3). -/
theorem test_decode_completes :
    nextWith (coreStep { tIdle with eng := .xDecode, op := 3, result := 0x7#32 })
      (fun t => statusWord t == 0x00000002#32 && t.result == 0#32) = true := by
  decide

/-- WR CMD, 4: E_ILLEGAL, STATUS = 6 (P3). -/
theorem test_illegal_word :
    nextWith (act (.host (wr .cmd 0x00000004#32)) tIdle)
      (fun t => statusWord t == 0x00000006#32 && t.result == 0xFFFFFFFD#32) = true := by
  decide

/-- RB BUF[0] and RD STATUS (P1's notation): the byte zero-extended, and the status word. -/
theorem test_host_reads :
    nextWith (act (.host (rbBuf 1)) tIdle) (fun t => t.reads == [0x000000FF#32]) = true ∧
    nextWith (act (.host (rd .status)) tClear) (fun t => t.reads == [0x00000001#32]) = true := by
  decide

/-- The next event is presented when the port's is accepted (R209, R212). -/
theorem test_accept :
    nextWith (act .accept tEmit)
      (fun t => expectEv [⟨.dit, 0x40#8⟩] tEmit t && t.evKind == 0b11#2 && t.evFlags == 0x41#8 && t.evValid) = true := by
  decide

/-- Reset during an ENCODE: BUF below the latched capacity becomes unwritten, TEXT stays (R270). -/
theorem test_reset_while_encoding :
    nextWith (act .reset { tScan .aligned 0x45#8 with buf := [(0, 0#8), (3, 0#8), (4, 0x11#8)] })
      (fun t => t.buf == [(4, 0x11#8)] && t.text == [(0, 0x45#8)] && !t.busy) = true := by
  decide

/-- The bytes at the edges of R129's classes. -/
theorem test_classify_edges :
    classify 0x00#8 = .ignored ∧ classify 0x01#8 = .stop ∧ classify 0x08#8 = .stop ∧ classify 0x09#8 = .space ∧
    classify 0x0A#8 = .stop ∧ classify 0x1F#8 = .stop ∧ classify 0x20#8 = .space ∧ classify 0x21#8 = .ignored ∧
    classify 0x2F#8 = .ignored ∧ classify 0x30#8 = .number 0x30#8 ∧ classify 0x39#8 = .number 0x39#8 ∧
    classify 0x3A#8 = .ignored ∧ classify 0x40#8 = .ignored ∧ classify 0x41#8 = .letter 0x41#8 ∧
    classify 0x5A#8 = .letter 0x5A#8 ∧ classify 0x5B#8 = .ignored ∧ classify 0x60#8 = .ignored ∧
    classify 0x61#8 = .letter 0x41#8 ∧ classify 0x7A#8 = .letter 0x5A#8 ∧ classify 0x7B#8 = .ignored ∧
    classify 0xFF#8 = .ignored := by
  decide

/-- The group counts of R16's examples. -/
theorem test_ngroups : ngroups 0x0000#16 = 0 ∧ ngroups 0x0039#16 = 3 ∧ ngroups 0xFFFF#16 = 8 := by decide

/-- Appending the record of a digit (AA 0E 03, R105) with one byte too few, and with just enough room (R147). -/
theorem test_append_boundary :
    (∃ s, appendAligned 0x0EAA#16 2 (tScan .aligned 0x30#8) = .ok (s, false)) ∧
    (∃ s, appendAligned 0x0EAA#16 3 (tScan .aligned 0x30#8) = .ok (s, true)) :=
  ⟨⟨_, rfl⟩, ⟨_, rfl⟩⟩

/-! ### A check of the invariant, for the witnesses -/

/-- `EncodeOperands` as a check. -/
def encodeOperandsCheck (s : State) : Bool :=
  decide (2 ≤ s.cap.toNat) && decide (s.cap.toNat ≤ s.cfg.bufSize) && decide (s.tlen.toNat ≤ s.cfg.textSize) &&
  ((s.op == 0#2 && s.mode == .aligned) || (s.op == 1#2 && s.mode == .compact))

theorem encodeOperands_of_check {s : State} (h : encodeOperandsCheck s = true) : EncodeOperands s := by
  simp only [encodeOperandsCheck, Bool.and_eq_true, Bool.or_eq_true, decide_eq_true_eq, beq_iff_eq] at h
  exact ⟨h.1.1.1, h.1.1.2, h.1.2, h.2⟩

/-- `bufCleared` as a check. -/
def bufClearedCheck (s : State) : Bool := (List.range s.cap.toNat).all fun a => (s.buf.read a).isSome

theorem bufCleared_of_check {s : State} (h : bufClearedCheck s = true) : bufCleared s := by
  intro a ha
  simp only [bufClearedCheck, List.all_eq_true, List.mem_range] at h
  exact h a ha

/-- `DispatchOperands` and `byteHeld` as a check. -/
def dispatchCheck (s : State) : Bool :=
  decide (s.dlen.toNat ≤ s.cfg.bufSize) && s.op == 2#2 && (s.slot == 0 || s.buf.read s.bi == some s.b)

theorem dispatch_of_check {s : State} (h : dispatchCheck s = true) : DispatchOperands s ∧ byteHeld s := by
  simp only [dispatchCheck, Bool.and_eq_true, Bool.or_eq_true, decide_eq_true_eq, beq_iff_eq] at h
  exact ⟨⟨h.1.1, h.1.2⟩, fun hs => h.2.resolve_left hs⟩

/-- `EngineInv` as a check. -/
def engineCheck (s : State) : Bool :=
  match s.eng with
  | .idle => true
  | .eClear =>
    encodeOperandsCheck s && decide (s.j < s.cap.toNat) && (List.range s.j).all fun a => s.buf.read a == some 0#8
  | .eScan =>
    encodeOperandsCheck s && bufClearedCheck s && decide (s.p ≤ effective s) && decide (s.k ≤ 4 * effective s) &&
      decide (s.i < s.tlen.toNat) && !s.halted
  | .eTerm =>
    encodeOperandsCheck s && bufClearedCheck s && decide (s.p ≤ effective s) && decide (s.k ≤ 4 * effective s) &&
      decide (s.i ≤ s.tlen.toNat)
  | .eFin =>
    encodeOperandsCheck s && bufClearedCheck s && decide (2 ≤ encodedLength s) &&
      decide (encodedLength s ≤ s.cap.toNat) && decide (s.i ≤ s.tlen.toNat)
  | .dWalk => dispatchCheck s && (decide (s.bi < s.dlen.toNat) || (s.dlen.toNat == 0 && s.bi == 0))
  | .dEmit => dispatchCheck s && decide (s.bi ≤ s.dlen.toNat)
  | .dFin => dispatchCheck s && s.bi == s.dlen.toNat
  | .xDecode => s.op == 3#2

theorem engineInv_of_check {s : State} (h : engineCheck s = true) : EngineInv s := by
  unfold engineCheck at h
  unfold EngineInv
  revert h
  cases s.eng <;> intro h <;>
    simp only [Bool.and_eq_true, Bool.or_eq_true, decide_eq_true_eq, beq_iff_eq, Bool.not_eq_true', List.all_eq_true,
      List.mem_range] at h
  · trivial
  · exact ⟨encodeOperands_of_check h.1.1, h.1.2, h.2⟩
  · exact ⟨encodeOperands_of_check h.1.1.1.1.1, bufCleared_of_check h.1.1.1.1.2, ⟨h.1.1.1.2, h.1.1.2⟩, h.1.2, h.2⟩
  · exact ⟨encodeOperands_of_check h.1.1.1.1, bufCleared_of_check h.1.1.1.2, ⟨h.1.1.2, h.1.2⟩, h.2⟩
  · exact ⟨encodeOperands_of_check h.1.1.1.1, bufCleared_of_check h.1.1.1.2, h.1.1.2, h.1.2, h.2⟩
  · exact ⟨(dispatch_of_check h.1).1, h.2, (dispatch_of_check h.1).2⟩
  · exact ⟨(dispatch_of_check h.1).1, h.2, (dispatch_of_check h.1).2⟩
  · exact ⟨(dispatch_of_check h.1).1, h.2⟩
  · exact h

/-- `PortInv` as a check. -/
def portCheck (s : State) : Bool :=
  s.evValid == decide (s.eng = .dEmit) && decide (s.q.length ≤ 3) &&
  match s.q with
  | [] => s.eng != .dEmit
  | e :: _ => s.eng == .dEmit && s.evKind == e.kind.code && s.evFlags == e.flags

theorem portInv_of_check {s : State} (h : portCheck s = true) : PortInv s := by
  unfold portCheck at h
  simp only [Bool.and_eq_true, decide_eq_true_eq, beq_iff_eq] at h
  refine ⟨h.1.1, h.1.2, ?_⟩
  have h2 := h.2
  revert h2
  cases s.q with
  | nil => simp
  | cons e es => simp only [Bool.and_eq_true, beq_iff_eq]; exact fun h2 => ⟨h2.1.1, h2.1.2, h2.2⟩

/-- `Inv` as a check. -/
def invCheck (s : State) : Bool :=
  s.cfg.wellFormed && s.text.wf && s.text.all (fun c => decide (c.1 < s.cfg.textSize)) && s.buf.wf &&
  s.buf.all (fun c => decide (c.1 < s.cfg.bufSize)) &&
  [s.textLen, s.capacity, s.length, s.tlen, s.cap, s.dlen].all (fun v => decide (v.toNat < 2 ^ s.cfg.addrW)) &&
  s.base &&& 0x0F#8 == 0#8 && (!s.busy || (!s.done && !s.err && !s.trunc)) && (s.busy || s.err == s.result.msb) &&
  (!s.trunc || !s.err) && portCheck s && engineCheck s

theorem inv_of_check {s : State} (h : invCheck s = true) : Inv s := by
  simp only [invCheck, Bool.and_eq_true, Bool.or_eq_true, decide_eq_true_eq, beq_iff_eq, Bool.not_eq_true',
    List.all_eq_true, List.all_cons, List.all_nil] at h
  obtain ⟨⟨⟨⟨⟨⟨⟨⟨⟨⟨⟨hc, ht⟩, ht'⟩, hb⟩, hb'⟩, hw⟩, hbase⟩, hbusy⟩, herr⟩, htr⟩, hp⟩, he⟩ := h
  refine ⟨hc, ⟨ht, ht'⟩, ⟨hb, hb'⟩, ⟨hw.1, hw.2.1, hw.2.2.1, hw.2.2.2.1, hw.2.2.2.2.1, hw.2.2.2.2.2.1⟩, hbase, ?_, ?_,
    ?_, portInv_of_check hp, engineInv_of_check he⟩
  · intro hs
    rcases hbusy with hn | hn
    · rw [hs] at hn; cases hn
    · exact ⟨hn.1.1, hn.1.2, hn.2⟩
  · intro hs
    rcases herr with hn | hn
    · rw [hs] at hn; cases hn
    · exact hn
  · intro hs
    rcases htr with hn | hn
    · rw [hs] at hn; cases hn
    · exact hn

/-! ### Witnesses: a state that meets the hypotheses of each obligation that has some -/

/-- 'E' ready to be encoded, 01 FF ready to be dispatched. -/
theorem witness_ready_to_encode : ReadyToEncode tIdle [0x45#8] :=
  ⟨by decide, by decide, by decide, by decide, by decide, by decide, by unfold holdsText; decide⟩

theorem witness_ready_to_dispatch : ReadyToDispatch tIdle [0x01#8, 0xFF#8] :=
  ⟨by decide, by decide, by decide, by decide, by decide, holdsBuf_of_bufStarts (by decide)⟩

/-- The extremes of the legal operands: CAPACITY = 2 with TEXT_LEN = 0, and LENGTH = 0. -/
def tSmallest : State := { tIdle with textLen := 0, capacity := 2, length := 0 }

theorem witness_ready_at_the_extremes : ReadyToEncode tSmallest [] ∧ ReadyToDispatch tSmallest [] :=
  ⟨⟨by decide, by decide, by decide, by decide, by decide, by decide, by unfold holdsText; decide⟩,
   ⟨by decide, by decide, by decide, by decide, by decide, holdsBuf_of_bufStarts (by decide)⟩⟩

/-- The other extreme: CAPACITY = BUF_SIZE and TEXT_LEN = TEXT_SIZE, LENGTH = BUF_SIZE. -/
def tLargest : State := { tIdle with textLen := 4096, capacity := 4096, length := 4096 }

theorem witness_stepRunsTheDecodedCommand :
    tIdle.cfg.wellFormed = true ∧ decodeCmd 0x00000001#32 = .ok .encodeCompact := by decide

theorem witness_stepIsOneAgentsAtomicStep :
    tIdle.cfg.wellFormed = true ∧ tIdle.schedule = [] ∧
    (tIdle.withFetchWord 32 3).schedule = .host (.write 0x000#18 32 0x00000003#32) :: [] := by decide

theorem witness_illegalConfigurationIsRefused :
    Config.wellFormed { defaultConfig with letterRom := [] } = false ∧
    Config.romOk { defaultConfig with letterRom := [] } = false ∧
    Config.wellFormed { defaultConfig with addrW := 17 } = false ∧
    Config.romOk { defaultConfig with addrW := 17 } = true := by decide

theorem witness_encodeWithLegalOperands :
    (tIdle.busy = false ∧ 2 ≤ tIdle.capacity.toNat ∧ tIdle.capacity.toNat ≤ tIdle.cfg.bufSize ∧
      tIdle.textLen.toNat ≤ tIdle.cfg.textSize) ∧
    (tSmallest.busy = false ∧ 2 ≤ tSmallest.capacity.toNat ∧ tSmallest.capacity.toNat ≤ tSmallest.cfg.bufSize ∧
      tSmallest.textLen.toNat ≤ tSmallest.cfg.textSize) ∧
    (tLargest.busy = false ∧ 2 ≤ tLargest.capacity.toNat ∧ tLargest.capacity.toNat ≤ tLargest.cfg.bufSize ∧
      tLargest.textLen.toNat ≤ tLargest.cfg.textSize) := by decide

theorem witness_dispatchWithLegalLength :
    (tSmallest.busy = false ∧ tSmallest.length.toNat ≤ tSmallest.cfg.bufSize) ∧
    (tLargest.busy = false ∧ tLargest.length.toNat ≤ tLargest.cfg.bufSize) := by decide

theorem witness_decodeCompletes : tIdle.busy = false := by decide

/-- CAPACITY = 1, the largest value below the threshold. -/
def tCapacity1 : State := { tIdle with capacity := 1 }

theorem witness_encodeBelowThreshold :
    tCapacity1.cfg.wellFormed = true ∧ tCapacity1.busy = false ∧ tCapacity1.capacity.toNat < 2 := by decide

/-- One more than the sizes: CAPACITY alone, TEXT_LEN alone, and LENGTH. -/
def tCapacity4097 : State := { tIdle with capacity := 4097 }

def tTextLen4097 : State := { tIdle with textLen := 4097 }

def tLength4097 : State := { tIdle with length := 4097 }

theorem witness_encodeOutOfRange :
    (tCapacity4097.cfg.wellFormed = true ∧ tCapacity4097.busy = false ∧ 2 ≤ tCapacity4097.capacity.toNat ∧
      tCapacity4097.cfg.bufSize < tCapacity4097.capacity.toNat) ∧
    (tTextLen4097.cfg.wellFormed = true ∧ tTextLen4097.busy = false ∧ 2 ≤ tTextLen4097.capacity.toNat ∧
      tTextLen4097.cfg.textSize < tTextLen4097.textLen.toNat) := by decide

theorem witness_dispatchOutOfRange :
    tLength4097.cfg.wellFormed = true ∧ tLength4097.busy = false ∧
    tLength4097.cfg.bufSize < tLength4097.length.toNat := by decide

theorem witness_illegalCommandWord :
    tIdle.cfg.wellFormed = true ∧ tIdle.busy = false ∧ (0x00000004#32).extractLsb' 2 30 ≠ 0#30 ∧
    (0x80000000#32).extractLsb' 2 30 ≠ 0#30 := by decide

theorem witness_commandWhileBusy : tClear.busy = true ∧ tEmit.busy = true := by decide

/-- An accepted and a rejected issue, and an ignored one. -/
theorem witness_issueFrame :
    (∃ t, exec .encodeAligned tIdle = .next t) ∧ (∃ t, exec .dispatch tLength4097 = .next t) ∧
    (∃ t, exec .decode tClear = .next t) := ⟨⟨_, rfl⟩, ⟨_, rfl⟩, ⟨_, rfl⟩⟩

/-- X_DECODE of a DECODE, with an old RESULT. -/
def tDecode : State := { tIdle with eng := .xDecode, op := 3, result := 7 }

theorem witness_finishCompletes : tDone.eng = .dFin ∧ tDecode.eng = .xDecode := by decide

theorem witness_irq : State.done { tIdle with done := true } = true := by decide

/-- RESULT changes by DECODE's completion, by the write of an illegal command word, and by a reset. -/
theorem witness_resultChanges :
    (∃ t, step tDecode = .next t ∧ t.result ≠ tDecode.result) ∧
    (∃ t, step (tIdle.withFetchWord 32 4) = .next t ∧ t.result ≠ tIdle.result) ∧
    (∃ t, step { tDecode with schedule := [.reset] } = .next t ∧ t.result ≠ tDecode.result) := by
  refine ⟨?_, ?_, ?_⟩
  · obtain ⟨t, h, hp⟩ := exists_of_nextWith (o := step tDecode) (p := fun t => t.result != tDecode.result) (by decide)
    exact ⟨t, h, by simpa using hp⟩
  · obtain ⟨t, h, hp⟩ := exists_of_nextWith (o := step (tIdle.withFetchWord 32 4))
      (p := fun t => t.result != tIdle.result) (by decide)
    exact ⟨t, h, by simpa using hp⟩
  · obtain ⟨t, h, hp⟩ := exists_of_nextWith (o := step { tDecode with schedule := [.reset] })
      (p := fun t => t.result != tDecode.result) (by decide)
    exact ⟨t, h, by simpa using hp⟩

/-- Both ends of each range of R129's table. -/
theorem witness_everyByteIsClassified :
    (0x01#8 ≤ 0x01#8 ∧ 0x08#8 ≤ 0x08#8) ∧ (0x0A#8 ≤ 0x1F#8) ∧ (0x21#8 ≤ 0x2F#8) ∧ (0x30#8 ≤ 0x39#8) ∧
    (0x3A#8 ≤ 0x40#8) ∧ (0x41#8 ≤ 0x5A#8) ∧ (0x5B#8 ≤ 0x60#8) ∧ (0x61#8 ≤ 0x7A#8) ∧ (0x7B#8 ≤ 0xFF#8) := by decide

theorem witness_groupCount : 2 < ngroups 0x0039#16 ∧ 7 < ngroups 0xFFFF#16 := by decide

/-- An entry built from a pattern that fits is never 0. -/
theorem romEntryFrom_ne_zero (n : Nat) (pattern : List Mark) (h : n + pattern.length ≤ 7) :
    romEntryFrom n pattern ≠ 0#16 := by
  induction pattern generalizing n with
  | nil =>
    simp only [List.length_nil, Nat.add_zero] at h
    have all : ∀ k, k < 8 → romEntryFrom k [] ≠ 0#16 := by decide
    exact all n (by omega)
  | cons m ms ih =>
    simp only [List.length_cons] at h
    rw [romEntryFrom]
    exact fun hz => ih (n + 1) (by omega) (BitVec.or_eq_zero_iff.mp hz).2

/-- A pattern of one mark and one of seven; and a ROM with an entry that no pattern gives. -/
theorem witness_romEntry :
    (1 ≤ [false].length ∧ [false].length ≤ 7 ∧ [false][0]? = some false) ∧
    (1 ≤ (List.replicate 7 true).length ∧ (List.replicate 7 true).length ≤ 7 ∧
      (List.replicate 7 true)[6]? = some true) ∧
    (let s := { State.reset with cfg := { defaultConfig with digitRom := 0x0000#16 :: defaultDigitRom.tail } }
     0x0000#16 ∈ s.cfg.digitRom ∧
       ∀ pattern : List Mark, 1 ≤ pattern.length → pattern.length ≤ 7 → 0x0000#16 ≠ romEntry pattern) :=
  ⟨by decide, by decide, by decide, fun pattern _ h => (romEntryFrom_ne_zero 0 pattern (by omega)).symm⟩

theorem witness_lookup :
    defaultConfig.wellFormed = true ∧ classify 0x00#8 = .ignored ∧ classify 0x7A#8 = .letter 0x5A#8 ∧
    classify 0x39#8 = .number 0x39#8 ∧ classify 0x09#8 = .space ∧ classify 0x1F#8 = .stop := by decide

/-- E_CLEAR at its first byte, and at its last with a byte to scan and with none. -/
theorem witness_clearStep :
    (tClear.eng = .eClear ∧ tClear.j + 1 < tClear.cap.toNat) ∧
    (let s := { tClear with j := 3 }
     s.eng = .eClear ∧ s.j < s.cap.toNat ∧ s.cap.toNat ≤ s.j + 1 ∧ 0 < s.tlen.toNat) ∧
    (let s := { tClear with j := 3, tlen := 0 }
     s.eng = .eClear ∧ s.j < s.cap.toNat ∧ s.cap.toNat ≤ s.j + 1 ∧ s.tlen.toNat = 0) := by decide

/-- A record of two bytes, with room for one and room for two, and one of three bytes. -/
theorem witness_appendAligned :
    (let s := tScan .aligned 0x45#8
     1 ≤ s.cap.toNat ∧ 1 < s.p + [0x0D#8, 0x03#8].length ∧ 2 ≤ s.cap.toNat ∧ s.p + [0x0D#8, 0x03#8].length ≤ 2) ∧
    [0x0D#8, 0x03#8] = record 0x000D#16 ∧ [0xAA#8, 0x0E#8, 0x03#8] = record 0x0EAA#16 := by decide

/-- A run of seven groups where one byte is the limit, and where two are. -/
theorem witness_appendCompact :
    (let s := tScan .compact 0x30#8
     bufCleared s ∧ 2 ≤ s.cap.toNat ∧ 4 * 1 < s.k + (run s.cfg 0x0EAA#16).length ∧
       s.k + (run s.cfg 0x0EAA#16).length ≤ 4 * 2) :=
  ⟨bufCleared_of_check (by decide), by decide, by decide, by decide⟩

theorem witness_inv_scan : Inv (tScan .aligned 0x45#8) ∧ Inv (tScan .compact 0x45#8) :=
  ⟨inv_of_check (by decide), inv_of_check (by decide)⟩

theorem witness_mainLoopKeepsTheMargin :
    (Inv (tScan .aligned 0x45#8) ∧ (tScan .aligned 0x45#8).eng = .eScan ∧
      ∃ t, coreStep (tScan .aligned 0x45#8) = .next t) ∧
    (Inv (tScan .compact 0x45#8) ∧ (tScan .compact 0x45#8).eng = .eScan ∧
      ∃ t, coreStep (tScan .compact 0x45#8) = .next t) :=
  ⟨⟨inv_of_check (by decide), by decide, ⟨_, rfl⟩⟩, ⟨inv_of_check (by decide), by decide, ⟨_, rfl⟩⟩⟩

theorem witness_acceptedEncodeNeverFails :
    Inv tFin ∧ tFin.encoding = true ∧ ∃ t, coreStep tFin = .next t ∧ t.busy = false :=
  ⟨inv_of_check (by decide), by decide, ⟨_, rfl, rfl⟩⟩

theorem witness_ignoredByte :
    (let s := tScan .aligned 0x21#8
     s.eng = .eScan ∧ s.scanning = true ∧ s.text.read s.i = some 0x21#8 ∧ classify 0x21#8 = .ignored) := by decide

/-- 'E' with one byte left of the effective capacity, and with two groups left. -/
theorem witness_truncation :
    (let s := { tScan .aligned 0x45#8 with p := 1 }
     s.eng = .eScan ∧ s.scanning = true ∧ s.text.read s.i = some 0x45#8 ∧
       s.cap.toNat - 2 < s.p + (record 0x000D#16).length) ∧
    (let s := { tScan .compact 0x45#8 with k := 6 }
     s.eng = .eScan ∧ s.scanning = true ∧ s.text.read s.i = some 0x45#8 ∧
       4 * (s.cap.toNat - 2) < s.k + (run s.cfg 0x000D#16).length) ∧
    resolve defaultConfig (classify 0x45#8) = .ok (some 0x000D#16) :=
  ⟨by decide, by decide, rfl⟩

/-- An empty cleared buffer with the cursor at group 0. -/
theorem witness_compactCursor :
    Inv (tScan .compact 0x45#8) ∧ CompactFrontier (tScan .compact 0x45#8) ∧
    ∃ t, coreStep (tScan .compact 0x45#8) = .next t := by
  refine ⟨inv_of_check (by decide), fun _ _ => ?_, ⟨_, rfl⟩⟩
  have h : ∀ g, g < 16 → groupAt (tScan .compact 0x45#8) g = some symNul := by decide
  exact fun g hg => ⟨symNul, h g hg, fun hk => absurd hk (Nat.not_lt_zero g), fun _ => rfl⟩

/-- "E" and "E!" have the same non-IGNORED bytes, and both encodes complete. -/
def tIdleIgnored : State := { tIdle with text := [(0, 0x45#8), (1, 0x21#8)], textLen := 2 }

theorem witness_ignoredBytesAddNothing :
    ReadyToEncode tIdle [0x45#8] ∧ ReadyToEncode tIdleIgnored [0x45#8, 0x21#8] ∧
    tIdleIgnored = { tIdle with text := tIdleIgnored.text, textLen := tIdleIgnored.textLen } ∧
    [0x45#8].filter (fun v => classify v != .ignored) = [0x45#8, 0x21#8].filter (fun v => classify v != .ignored) ∧
    (∃ t u, exec .encodeAligned tIdle = .next t ∧ coreRun (encodeSteps tIdle) t = .next u) ∧
    (∃ t u, exec .encodeAligned tIdleIgnored = .next t ∧ coreRun (encodeSteps tIdleIgnored) t = .next u) :=
  ⟨witness_ready_to_encode,
   ⟨by decide, by decide, by decide, by decide, by decide, by decide, by unfold holdsText; decide⟩,
   rfl, by decide, ⟨_, _, rfl, rfl⟩, ⟨_, _, rfl, rfl⟩⟩

/-- One character in a capacity of 3 + 2, with a small BUF, spaces of eight END_CHARs and the separator test HIGH; and in
one of 2 + 2 with the default parameters. -/
theorem witness_sizedCapacity :
    (let s := { tIdle with
       capacity := 5
       cfg := { defaultConfig with bufSize := 5, endWordCode := 0xFFFF#16, compactSepTest := .high } }
     ReadyToEncode s [0x45#8] ∧ s.cfg.letterRom = defaultLetterRom ∧ s.cfg.digitRom = defaultDigitRom ∧
       1 = ([0x45#8].filter fun v => classify v != .ignored).length ∧ 3 * 1 + 2 ≤ s.capacity.toNat) ∧
    (ReadyToEncode tIdle [0x45#8] ∧ tIdle.cfg.letterRom = defaultLetterRom ∧ tIdle.cfg.digitRom = defaultDigitRom ∧
      tIdle.cfg.compactSepTest = .low ∧ 2 * 1 + 2 ≤ tIdle.capacity.toNat) :=
  ⟨⟨⟨by decide, by decide, by decide, by decide, by decide, by decide, by unfold holdsText; decide⟩,
    rfl, rfl, by decide, by decide⟩,
   ⟨witness_ready_to_encode, rfl, rfl, rfl, by decide⟩⟩

/-- Both encodes of "E" at capacity 4 complete untruncated: 0D 03 FF FF and FD FF 3F. -/
theorem witness_both_layouts :
    ReadyToEncode tIdle [0x45#8] ∧ tIdle.cfg = defaultConfig ∧
    ∃ ta ua tc uc, exec .encodeAligned tIdle = .next ta ∧ coreRun (encodeSteps tIdle) ta = .next ua ∧
      exec .encodeCompact tIdle = .next tc ∧ coreRun (encodeSteps tIdle) tc = .next uc ∧
      ua.trunc = false ∧ uc.trunc = false ∧
      [0x0D#8, 0x03#8, 0xFF#8, 0xFF#8].length = ua.result.toNat ∧ holdsBuf ua [0x0D#8, 0x03#8, 0xFF#8, 0xFF#8] ∧
      [0xFD#8, 0xFF#8, 0x3F#8].length = uc.result.toNat ∧ holdsBuf uc [0xFD#8, 0xFF#8, 0x3F#8] := by
  refine ⟨witness_ready_to_encode, rfl, ?_⟩
  refine ⟨_, _, _, _, rfl, rfl, rfl, rfl, by decide, by decide, by decide, ?_, by decide, ?_⟩ <;>
    exact holdsBuf_of_bufStarts (by decide)

/-- The four symbols under the walk, DIT and NUL in 01, END_CHAR in FF, DAH in 02; the last slot of FF, and one that is
not the last. -/
theorem witness_walkActs :
    (let s := tWalk
     s.eng = .dWalk ∧ s.q = [] ∧ s.bi < s.dlen.toNat ∧ s.buf.read s.bi = some 0x01#8 ∧
       4 * s.bi + s.slot.val + 1 ≠ 4 * s.dlen.toNat ∧ slotOf 0x01#8 s.slot.val = 0b01#2) ∧
    (let s := { tWalk with slot := 1, b := 0x01#8 }
     s.slot ≠ 0 ∧ s.b = 0x01#8 ∧ slotOf 0x01#8 s.slot.val = 0b00#2) ∧
    (let s := { tWalk with bi := 1, slot := 3, b := 0xFF#8 }
     s.bi < s.dlen.toNat ∧ 4 * s.bi + s.slot.val + 1 = 4 * s.dlen.toNat ∧ slotOf 0xFF#8 s.slot.val = 0b11#2) ∧
    slotOf 0x02#8 0 = 0b10#2 ∧ (∃ t, coreStep tWalk = .next t) ∧
    (∃ t, coreStep { tWalk with bi := 1, slot := 3, b := 0xFF#8 } = .next t) :=
  ⟨by decide, by decide, by decide, by decide, ⟨_, rfl⟩, ⟨_, rfl⟩⟩

/-- A DISPATCH of 01 FF that walks, that presents an event, and that is over. -/
theorem witness_eventsInOrder :
    (Inv tWalk ∧ tWalk.dispatching = true ∧ tWalk.dlen.toNat = [0x01#8, 0xFF#8].length ∧
      holdsBuf tWalk [0x01#8, 0xFF#8] ∧ (∃ t, step tWalk = .next t) ∧ tWalk.schedule.head? ≠ some .reset) ∧
    (Inv { tEmit with schedule := [.accept] } ∧ holdsBuf { tEmit with schedule := [.accept] } [0x01#8, 0xFF#8] ∧
      ∃ t, step { tEmit with schedule := [.accept] } = .next t) ∧
    (Inv tDone ∧ tDone.dispatching = true ∧ holdsBuf tDone [0x01#8, 0xFF#8] ∧
      ∃ t, step tDone = .next t ∧ t.dispatching = false) :=
  ⟨⟨inv_of_check (by decide), by decide, by decide, holdsBuf_of_bufStarts (by decide), ⟨_, rfl⟩, by decide⟩,
   ⟨inv_of_check (by decide), holdsBuf_of_bufStarts (by decide), ⟨_, rfl⟩⟩,
   ⟨inv_of_check (by decide), by decide, holdsBuf_of_bufStarts (by decide), ⟨_, rfl, rfl⟩⟩⟩

/-- The core's step, a register write and a CMD write while an event is presented. -/
theorem witness_presentedEventHolds :
    Inv tEmit ∧ tEmit.evValid = true ∧ (∃ t, act .core tEmit = .next t) ∧
    (∃ t, act (.host (wr .flags 0x80#32)) tEmit = .next t) ∧ (∃ t, act (.host dec) tEmit = .next t) :=
  ⟨inv_of_check (by decide), by decide, ⟨_, rfl⟩, ⟨_, rfl⟩, ⟨_, rfl⟩⟩

/-- D_EMIT with the last event queued: a slot left to visit, and none left. -/
def tEmitLast : State := { tEmit with q := [⟨.silence, 0x41#8⟩], evKind := 0b11#2, evFlags := 0x41#8 }

def tEmitFinal : State := { tEmitLast with bi := 2, slot := 0 }

/-- No event presented; one with another behind it; the last one with the walk to go on, and with the walk over. -/
theorem witness_acceptance :
    (Inv tWalk ∧ tWalk.evValid = false) ∧ (Inv tEmit ∧ tEmit.evValid = true ∧ tEmit.q.length = 2) ∧
    (Inv tEmitLast ∧ tEmitLast.evValid = true ∧ tEmitLast.q.length = 1 ∧ tEmitLast.bi < tEmitLast.dlen.toNat) ∧
    (Inv tEmitFinal ∧ tEmitFinal.evValid = true ∧ tEmitFinal.bi = tEmitFinal.dlen.toNat) :=
  ⟨⟨inv_of_check (by decide), rfl⟩, ⟨inv_of_check (by decide), rfl, rfl⟩,
   ⟨inv_of_check (by decide), rfl, rfl, by decide⟩, ⟨inv_of_check (by decide), rfl, rfl⟩⟩

theorem witness_sounds :
    ∃ e, (eventsOf defaultConfig 0x40#8 [0x01#8, 0xFF#8])[0]? = some e ∧ e.kind ≠ .silence := ⟨_, rfl, by decide⟩

/-- The DISPATCH of `tEmit` with NO_DELAY set in place of bit 6: base, port and queue differ in the caller's bits. -/
def tEmitNoDelay : State :=
  { tEmit with
    flags := 0x80#8, base := 0x80#8, evFlags := 0x80#8, q := [⟨.dit, 0x80#8⟩, ⟨.silence, 0x81#8⟩] }

/-- Two presenting states that differ only in the caller's flags; they go on under one schedule, and a pair that faults. -/
theorem witness_callerFlags :
    SameButFlags tEmit tEmitNoDelay ∧ (∃ t, step tEmit = .next t) ∧
    SameButFlags { tWalk with buf := [] } { tWalk with buf := [], flags := 0x80#8, base := 0x80#8 } ∧
    faultIs (step { tWalk with buf := [] }) .unwrittenRead = true :=
  ⟨⟨rfl, by decide, by decide, by decide, by decide, rfl⟩, ⟨_, rfl⟩,
   ⟨rfl, by decide, by decide, by decide, by decide, rfl⟩, by decide⟩

/-- A core step of an ENCODE, and one of a DISPATCH. -/
theorem witness_coreStepFrame :
    (∃ t, coreStep tClear = .next t) ∧ (∃ t, coreStep tWalk = .next t) ∧ tWalk.encoding = false ∧
    tClear.cap.toNat ≤ 4 := ⟨⟨_, rfl⟩, ⟨_, rfl⟩, by decide, by decide⟩

theorem witness_coreReadOfUnwritten :
    (let s := { tScan .aligned 0x45#8 with text := [] }
     s.eng = .eScan ∧ s.scanning = true ∧ s.text.read s.i = none) ∧
    (let s := { tWalk with buf := [] }
     s.eng = .dWalk ∧ s.bi < s.dlen.toNat ∧ s.slot = 0 ∧ s.buf.read s.bi = none) := by decide

/-- The last register address misaligned, the last aligned one at 8 bits, and both ends of the windows. -/
theorem witness_wrongWidth :
    ((0x000FF#18).toNat < 0x100 ∧ (0x000FF#18).toNat % 4 ≠ 0) ∧ ((0x000FC#18).toNat < 0x100 ∧ 8 ≠ 32) ∧
    (0x10000 ≤ (0x10000#18).toNat ∧ (0x10000#18).toNat < 0x30000 ∧ 32 ≠ 8) ∧
    (0x10000 ≤ (0x2FFFF#18).toNat ∧ (0x2FFFF#18).toNat < 0x30000 ∧ 16 ≠ 8) := by decide

theorem witness_windowWhileBusy :
    tClear.busy = true ∧ 0x10000 ≤ (0x10000#18).toNat ∧ 0x10000 ≤ (0x2FFFF#18).toNat ∧
    (0x2FFFF#18).toNat < 0x30000 := by decide

/-- Both ends of each reserved range. -/
theorem witness_reservedAddress :
    (0x100 ≤ (0x00100#18).toNat ∧ (0x0FFFF#18).toNat < 0x10000) ∧ (0x30000 ≤ (0x30000#18).toNat) ∧
    (0x20 ≤ (0x00020#18).toNat ∧ (0x00020#18).toNat % 4 = 0 ∧ (0x000FC#18).toNat < 0x100 ∧ (0x000FC#18).toNat % 4 = 0) ∧
    (0x10000 + tIdle.cfg.textSize ≤ (0x11000#18).toNat ∧ (0x1FFFF#18).toNat < 0x20000) ∧
    (0x20000 + tIdle.cfg.bufSize ≤ (0x21000#18).toNat ∧ (0x2FFFF#18).toNat < 0x30000) ∧ tIdle.busy = false := by decide

theorem witness_registerReadsBack :
    tIdle.cfg.wellFormed = true ∧ (∃ t, act (.host (wr .ctrl 0xFFFFFFFF#32)) tIdle = .next t) ∧
    (∃ t, act (.host (wr .flags 0xFFFFFFFF#32)) tIdle = .next t) ∧
    (∃ t, act (.host (wr .textLen 0xFFFFFFFF#32)) tIdle = .next t) ∧
    (∃ t, act (.host (wr .capacity 0xFFFFFFFF#32)) tIdle = .next t) ∧
    (∃ t, act (.host (wr .length 0xFFFFFFFF#32)) tIdle = .next t) :=
  ⟨by decide, ⟨_, rfl⟩, ⟨_, rfl⟩, ⟨_, rfl⟩, ⟨_, rfl⟩, ⟨_, rfl⟩⟩

/-- The first and the last byte of each memory, and a written byte of each. -/
theorem witness_windowReads :
    tIdle.cfg.wellFormed = true ∧ tIdle.busy = false ∧ 0 < tIdle.cfg.textSize ∧ 4095 < tIdle.cfg.textSize ∧
    0 < tIdle.cfg.bufSize ∧ 4095 < tIdle.cfg.bufSize ∧ tIdle.text.read 0 = some 0x45#8 ∧
    tIdle.buf.read 1 = some 0xFF#8 := by decide

/-- An unwritten byte of each memory, the last one too. -/
theorem witness_hostReadOfUnwritten :
    tIdle.cfg.wellFormed = true ∧ tIdle.busy = false ∧
    (1 < tIdle.cfg.textSize ∧ tIdle.text.read 1 = none ∧ 4095 < tIdle.cfg.textSize ∧ tIdle.text.read 4095 = none) ∧
    (2 < tIdle.cfg.bufSize ∧ tIdle.buf.read 2 = none ∧ 4095 < tIdle.cfg.bufSize ∧ tIdle.buf.read 4095 = none) := by
  decide

theorem witness_reset : tWalk.encoding = false ∧ tClear.encoding = true := by decide

theorem witness_romNeverChanges : ∃ t, step tIdle = .next t := ⟨_, rfl⟩

theorem witness_everyStepKeepsTheInvariant : Inv tClear ∧ ∃ t, step tClear = .next t :=
  ⟨inv_of_check (by decide), ⟨_, rfl⟩⟩

/-- Each of the three faults, from a state of the invariant. -/
theorem witness_everyFaultHasItsCause :
    (Inv { tIdle with schedule := [.host (.read 0x00002#18 32)] } ∧
      faultIs (step { tIdle with schedule := [.host (.read 0x00002#18 32)] }) .badAccess = true) ∧
    (Inv { tClear with schedule := [.host (.read 0x20000#18 8)] } ∧
      faultIs (step { tClear with schedule := [.host (.read 0x20000#18 8)] }) .windowWhileBusy = true) ∧
    (Inv { tWalk with buf := [] } ∧ faultIs (step { tWalk with buf := [] }) .unwrittenRead = true) ∧
    (Inv { tScan .aligned 0x45#8 with text := [] } ∧
      faultIs (step { tScan .aligned 0x45#8 with text := [] }) .unwrittenRead = true) :=
  ⟨⟨inv_of_check (by decide), by decide⟩, ⟨inv_of_check (by decide), by decide⟩,
   ⟨inv_of_check (by decide), by decide⟩, ⟨inv_of_check (by decide), by decide⟩⟩

end Sys2Proof.Machine
end

section
/-! SUPPORT. The group count as the least shift to zero (R16), and the step as one agent's (R19). -/

namespace Sys2Proof.Machine

/-- The digits counted are the least number of base-4 digits that hold `v`, when the fuel holds it. -/
theorem countGroups_le_iff {fuel v : Nat} (n : Nat) (h : v < 4 ^ fuel) : countGroups fuel v ≤ n ↔ v < 4 ^ n := by
  induction fuel generalizing v n with
  | zero =>
    have hv : v = 0 := by simpa using h
    simp [countGroups, hv]
  | succ fuel ih =>
    by_cases hv : v = 0
    · simp [countGroups, hv]
    · rw [countGroups, if_neg hv]
      cases n with
      | zero => simp [hv]
      | succ n =>
        have hq : v / 4 < 4 ^ fuel := by rw [pow_succ] at h; omega
        rw [Nat.add_comm, Nat.add_le_add_iff_right, ih n hq, pow_succ, Nat.div_lt_iff_lt_mul (by decide)]

/-- A code shifted by `n` groups is zero exactly when it is below `4 ^ n`. -/
theorem ushiftRight_groups_eq_zero_iff (cc : Code) (n : Nat) : cc >>> (2 * n) = 0#16 ↔ cc.toNat < 4 ^ n := by
  rw [← BitVec.toNat_inj, BitVec.toNat_ushiftRight, Nat.shiftRight_eq_div_pow, pow_mul, BitVec.toNat_ofNat,
    Nat.zero_mod, Nat.div_eq_zero_iff_lt (by positivity), show 2 ^ 2 = 4 from rfl]

/-- `n` groups shift a code to zero exactly from its group count on (R16). -/
theorem ngroups_le_iff (cc : Code) (n : Nat) : ngroups cc ≤ n ↔ cc >>> (2 * n) = 0#16 := by
  rw [ushiftRight_groups_eq_zero_iff]
  exact countGroups_le_iff n cc.isLt

theorem groupOf_eq_ushiftRight (cc : Code) (g : Nat) : groupOf cc g = (cc >>> (2 * g)).setWidth 2 :=
  BitVec.setWidth_ushiftRight_eq_extractLsb.symm

/-- Settles O20: the group count is the least shift to zero because `ngroups cc ≤ n` says exactly that. -/
theorem groupCountIsLeastShift : Obligations.GroupCountIsLeastShift := by
  refine ⟨groupOf_eq_ushiftRight, fun cc => ⟨?_, fun n hn => ?_⟩, by decide, by decide, by decide⟩
  · exact (ngroups_le_iff cc _).mp (Nat.le_refl _)
  · exact mt (ngroups_le_iff cc n).mpr (Nat.not_le.mpr hn)

/-- Settles O4: the two cases of the schedule. -/
theorem stepIsOneAgentsAtomicStep : Obligations.StepIsOneAgentsAtomicStep :=
  ⟨fun _ => step_of_idle_schedule, fun _ _ _ => step_of_scheduled⟩

end Sys2Proof.Machine
end

section
/-! SUPPORT. The invariant cut into the parts a step keeps by the same argument: the stored data, the silent run of a
busy block with nothing on its port, the port, and one equation of `EngineInv` per engine state. -/

namespace Sys2Proof.Machine

/-! ### A memory within its size -/

/-- A canonical memory whose addresses are all below `size` (R36). -/
def MemoryFits (m : Memory) (size : Nat) : Prop := m.wf = true ∧ ∀ c ∈ m, c.1 < size

theorem memoryFits_write {m : Memory} {size a : Nat} (v : Byte) (h : MemoryFits m size) (ha : a < size) :
    MemoryFits (m.write a v) size := by
  refine ⟨Memory.wf_write a v h.1, fun c hc => ?_⟩
  rcases Memory.mem_write hc with rfl | hc
  · exact ha
  · exact h.2 c hc

theorem memoryFits_forget {m : Memory} {size : Nat} (n : Nat) (h : MemoryFits m size) : MemoryFits (m.forget n) size :=
  ⟨Memory.wf_forget n h.1, fun c hc => h.2 c (Memory.mem_forget hc)⟩

theorem memoryFits_writeList {m : Memory} {size a : Nat} {vs : List Byte} (h : MemoryFits m size)
    (ha : a + vs.length ≤ size) : MemoryFits (m.writeList a vs) size := by
  refine ⟨Memory.wf_writeList a vs h.1, fun c hc => ?_⟩
  rcases Memory.mem_writeList hc with hc | hc
  · omega
  · exact h.2 c hc

theorem memoryFits_orList {m : Memory} {size k : Nat} {gs : List Sym} (h : MemoryFits m size)
    (hk : k + gs.length ≤ 4 * size) : MemoryFits (m.orList k gs) size := by
  refine ⟨Memory.wf_orList k gs h.1, fun c hc => ?_⟩
  rcases Memory.mem_orList hc with hc | hc
  · omega
  · exact h.2 c hc

/-! ### The parts of the invariant -/

/-- The part of the invariant about stored data: no status bit, port signal or engine state enters it. -/
structure DataInv (s : State) : Prop where
  config : s.cfg.wellFormed = true
  text : MemoryFits s.text s.cfg.textSize
  buf : MemoryFits s.buf s.cfg.bufSize
  widths : fitsAddr s.cfg s.textLen ∧ fitsAddr s.cfg s.capacity ∧ fitsAddr s.cfg s.length ∧
    fitsAddr s.cfg s.tlen ∧ fitsAddr s.cfg s.cap ∧ fitsAddr s.cfg s.dlen
  base : s.base &&& 0x0F#8 = 0#8

/-- A command under way with no event queued or presented: what every busy state but D_EMIT has beside `EngineInv`. -/
structure SilentRun (s : State) : Prop extends DataInv s where
  done : s.done = false
  err : s.err = false
  trunc : s.trunc = false
  evValid : s.evValid = false
  queue : s.q = []

theorem Inv.data {s : State} (h : Inv s) : DataInv s := ⟨h.config, h.text, h.buf, h.widths, h.base⟩

theorem Inv.status_of_running {s : State} (h : Inv s) (he : s.eng ≠ .idle) :
    s.done = false ∧ s.err = false ∧ s.trunc = false :=
  h.busyStatus ((busy_eq_true_iff s).mpr he)

/-! ### The event port -/

/-- Outside D_EMIT the port is silent and the queue empty (R42, R43). -/
theorem portInv_iff_of_ne_dEmit {s : State} (h : s.eng ≠ .dEmit) : PortInv s ↔ s.evValid = false ∧ s.q = [] := by
  cases hq : s.q <;> simp [PortInv, hq, h]

/-- In D_EMIT the port shows the head of the queue (R43, R209). -/
theorem portInv_iff_of_dEmit {s : State} {e : Event} {es : List Event} (h : s.eng = .dEmit) (hq : s.q = e :: es) :
    PortInv s ↔ s.evValid = true ∧ s.q.length ≤ 3 ∧ s.evKind = e.kind.code ∧ s.evFlags = e.flags := by
  simp [PortInv, hq, h]

/-! ### `EngineInv`, one equation per engine state -/

theorem engineInv_of_idle {s : State} (h : s.eng = .idle) : EngineInv s := by
  simp [EngineInv, h]

theorem engineInv_eClear {s : State} (h : s.eng = .eClear) :
    EngineInv s ↔ EncodeOperands s ∧ s.j < s.cap.toNat ∧ ∀ a, a < s.j → s.buf.read a = some 0#8 := by
  simp [EngineInv, h]

theorem engineInv_eScan {s : State} (h : s.eng = .eScan) :
    EngineInv s ↔ EncodeOperands s ∧ bufCleared s ∧ withinMargin s ∧ s.i < s.tlen.toNat ∧ s.halted = false := by
  simp [EngineInv, h]

theorem engineInv_eTerm {s : State} (h : s.eng = .eTerm) :
    EngineInv s ↔ EncodeOperands s ∧ bufCleared s ∧ withinMargin s ∧ s.i ≤ s.tlen.toNat := by
  simp [EngineInv, h]

theorem engineInv_eFin {s : State} (h : s.eng = .eFin) :
    EngineInv s ↔ EncodeOperands s ∧ bufCleared s ∧ 2 ≤ encodedLength s ∧ encodedLength s ≤ s.cap.toNat ∧
      s.i ≤ s.tlen.toNat := by
  simp [EngineInv, h]

theorem engineInv_dWalk {s : State} (h : s.eng = .dWalk) :
    EngineInv s ↔ DispatchOperands s ∧ (s.bi < s.dlen.toNat ∨ (s.dlen.toNat = 0 ∧ s.bi = 0)) ∧ byteHeld s := by
  simp [EngineInv, h]

theorem engineInv_dEmit {s : State} (h : s.eng = .dEmit) :
    EngineInv s ↔ DispatchOperands s ∧ s.bi ≤ s.dlen.toNat ∧ byteHeld s := by
  simp [EngineInv, h]

theorem engineInv_dFin {s : State} (h : s.eng = .dFin) :
    EngineInv s ↔ DispatchOperands s ∧ s.bi = s.dlen.toNat := by
  simp [EngineInv, h]

theorem engineInv_xDecode {s : State} (h : s.eng = .xDecode) : EngineInv s ↔ s.op = 3#2 := by
  simp [EngineInv, h]

/-- `EngineInv` reads neither status nor port, host registers, TEXT, nor the model's own items. -/
theorem engineInv_congr {s t : State}
    (ht : t = { s with done := t.done, err := t.err, trunc := t.trunc, irqEn := t.irqEn, textLen := t.textLen,
                       capacity := t.capacity, length := t.length, flags := t.flags, result := t.result,
                       text := t.text, q := t.q, evValid := t.evValid, evKind := t.evKind, evFlags := t.evFlags,
                       schedule := t.schedule, delivered := t.delivered, reads := t.reads, freeIdx := t.freeIdx })
    (h : EngineInv s) : EngineInv t := by
  rw [ht]
  unfold EngineInv at h ⊢
  cases he : s.eng <;> simp only [he] at h ⊢
  case eClear | eScan | eTerm | eFin | dWalk | dEmit | dFin => exact ⟨{ h.1 with }, h.2⟩
  case xDecode => exact h

/-! ### Putting the invariant together -/

/-- The invariant of an idle state (R28, R43). -/
theorem inv_of_idle {s : State} (hd : DataInv s) (he : s.eng = .idle) (herr : s.err = s.result.msb)
    (htr : s.trunc = true → s.err = false) (hv : s.evValid = false) (hq : s.q = []) : Inv s :=
  { hd with
    busyStatus := fun hb => absurd he ((busy_eq_true_iff s).mp hb)
    idleErr := fun _ => herr
    truncOk := htr
    port := (portInv_iff_of_ne_dEmit (by simp [he])).mpr ⟨hv, hq⟩
    engine := engineInv_of_idle he }

/-- The invariant of a busy state (R279). -/
theorem inv_of_running {s : State} (hd : DataInv s) (he : s.eng ≠ .idle)
    (hst : s.done = false ∧ s.err = false ∧ s.trunc = false) (hp : PortInv s) (hi : EngineInv s) : Inv s :=
  { hd with
    busyStatus := fun _ => hst
    idleErr := fun hb => absurd ((busy_eq_false_iff s).mp hb) he
    truncOk := fun _ => hst.2.1
    port := hp
    engine := hi }

theorem Inv.silentRun {s : State} (h : Inv s) (he : s.eng ≠ .idle) (he' : s.eng ≠ .dEmit) : SilentRun s := by
  obtain ⟨hdone, herr, htr⟩ := h.status_of_running he
  obtain ⟨hv, hq⟩ := (portInv_iff_of_ne_dEmit he').mp h.port
  exact { h.data with done := hdone, err := herr, trunc := htr, evValid := hv, queue := hq }

theorem SilentRun.inv {s : State} (hr : SilentRun s) (he : s.eng ≠ .idle) (he' : s.eng ≠ .dEmit) (hi : EngineInv s) :
    Inv s :=
  inv_of_running hr.toDataInv he ⟨hr.done, hr.err, hr.trunc⟩
    ((portInv_iff_of_ne_dEmit he').mpr ⟨hr.evValid, hr.queue⟩) hi

/-- A completion or rejection leaves the invariant, whatever the result (R245). -/
theorem SilentRun.inv_finish {s : State} (hr : SilentRun s) (v : Word) : Inv (finish v s) :=
  inv_of_idle { hr with } rfl rfl (fun h => absurd (hr.trunc.symm.trans h) (by decide)) hr.evValid hr.queue

end Sys2Proof.Machine
end

section
/-! SUPPORT. The host's transactions and the reset input keep the invariant. -/

namespace Sys2Proof.Machine

/-! ### Issue -/

/-- A written field of ADDR_W bits stays within them (R30). -/
theorem fitsAddr_addrField (c : Config) (d : Word) : fitsAddr c (addrField c d) := by
  rw [fitsAddr, addrField, BitVec.toNat_ofNat]
  exact Nat.lt_of_le_of_lt (Nat.mod_le _ _) (Nat.mod_lt _ (by positivity))

/-- The status cleared at the issue from an idle state: a silent run, whatever the command (R241). -/
theorem Inv.silentRun_clearStatus {s : State} (h : Inv s) (hb : s.busy = false) : SilentRun (clearStatus s) := by
  have he : s.eng ≠ .dEmit := by simp [(busy_eq_false_iff s).mp hb]
  obtain ⟨hv, hq⟩ := (portInv_iff_of_ne_dEmit he).mp h.port
  exact { h.data with done := rfl, err := rfl, trunc := rfl, evValid := hv, queue := hq }

/-- The latched copies have the registers' widths, and the latched base no low nibble (R39). -/
theorem SilentRun.latch {s : State} (hr : SilentRun s) (o : BitVec 2) : SilentRun (latch o s) := by
  obtain ⟨ht, hc, hl, _, _, _⟩ := hr.widths
  exact { hr with widths := ⟨ht, hc, hl, ht, hc, hl⟩, base := flagsBase_low s.flags }

theorem inv_startEncode {mode : Mode} {s : State} (hr : SilentRun s)
    (hop : (s.op = 0#2 ∧ mode = .aligned) ∨ (s.op = 1#2 ∧ mode = .compact)) : Inv (startEncode mode s) := by
  rcases startEncode_cases mode s with ⟨_, hs⟩ | ⟨_, _, hs⟩ | ⟨hlow, hhigh, htlen, hs⟩ <;> rw [hs]
  · exact hr.inv_finish _
  · exact hr.inv_finish _
  · refine SilentRun.inv { hr with } (by simp) (by simp)
      ((engineInv_eClear rfl).mpr ⟨⟨hlow, hhigh, htlen, hop⟩, ?_, ?_⟩)
    · exact Nat.lt_of_lt_of_le Nat.two_pos hlow
    · exact fun a ha => absurd ha (Nat.not_lt_zero a)

theorem inv_startDispatch {s : State} (hr : SilentRun s) (hop : s.op = 2#2) : Inv (startDispatch s) := by
  by_cases hd : s.cfg.bufSize < s.dlen.toNat
  · rw [startDispatch_of_range hd]
    exact hr.inv_finish _
  · have hd := Nat.le_of_not_lt hd
    rw [startDispatch_of_legal hd]
    refine SilentRun.inv { hr with queue := rfl } (by simp) (by simp)
      ((engineInv_dWalk rfl).mpr ⟨⟨hd, hop⟩, ?_, fun hs => absurd rfl hs⟩)
    exact (Nat.eq_zero_or_pos s.dlen.toNat).elim (fun h0 => .inr ⟨h0, rfl⟩) .inl

theorem inv_startDecode {s : State} (hr : SilentRun s) (hop : s.op = 3#2) : Inv (startDecode s) :=
  SilentRun.inv { hr with } (by simp [startDecode]) (by simp [startDecode]) ((engineInv_xDecode rfl).mpr hop)

/-- An issue keeps the invariant when the command's own start does, from the latched state (R241, R242). -/
theorem inv_issue {o : BitVec 2} {start : State → State} {s t : State} (h : Inv s)
    (hstart : ∀ u, SilentRun u → u.op = o → Inv (start u)) (ht : issue o start s = .next t) : Inv t := by
  rcases issue_cases ht with ⟨_, rfl⟩ | ⟨hb, rfl⟩
  · exact h
  · exact hstart _ ((h.silentRun_clearStatus hb).latch o) rfl

theorem inv_exec {i : Instr} {s t : State} (h : Inv s) (ht : exec i s = .next t) : Inv t := by
  cases i with
  | encodeAligned => exact inv_issue h (fun _ hr ho => inv_startEncode hr (.inl ⟨ho, rfl⟩)) ht
  | encodeCompact => exact inv_issue h (fun _ hr ho => inv_startEncode hr (.inr ⟨ho, rfl⟩)) ht
  | dispatch => exact inv_issue h (fun _ hr ho => inv_startDispatch hr ho) ht
  | decode => exact inv_issue h (fun _ hr ho => inv_startDecode hr ho) ht

/-- A rejected word changes nothing while busy and completes at once while idle (R242, R243). -/
theorem inv_illegalCommand {s t : State} (h : Inv s) (ht : illegalCommand s = .next t) : Inv t := by
  cases hb : s.busy <;> simp only [illegalCommand, hb, if_true, if_false, Bool.false_eq_true] at ht <;> cases ht
  · exact (h.silentRun_clearStatus hb).inv_finish _
  · exact h

theorem inv_writeCmd {w : Word} {s t : State} (h : Inv s) (ht : writeCmd w s = .next t) : Inv t := by
  rcases writeCmd_cases w s with ⟨i, _, hw⟩ | ⟨_, hw⟩ <;> rw [hw] at ht
  · exact inv_exec h ht
  · exact inv_illegalCommand h ht

/-! ### Host registers and windows -/

/-- What the outside may change within the invariant: the operand registers within their widths, CTRL, FLAGS, DONE to 0,
the memories within their sizes (BUF only while idle), and the model's own items. -/
theorem Inv.of_outside {s t : State} (h : Inv s)
    (ht : t = { s with done := t.done, irqEn := t.irqEn, textLen := t.textLen, capacity := t.capacity,
                       length := t.length, flags := t.flags, text := t.text, buf := t.buf, schedule := t.schedule,
                       reads := t.reads, freeIdx := t.freeIdx })
    (hd : DataInv t) (hdone : s.done = false → t.done = false) (hbuf : s.busy = true → t.buf = s.buf) : Inv t := by
  have heng : t.eng = s.eng := by rw [ht]
  have hport : PortInv t := by rw [ht]; exact h.port
  by_cases he : s.eng = .idle
  · obtain ⟨hv, hq⟩ := (portInv_iff_of_ne_dEmit (by simp [heng, he])).mp hport
    refine inv_of_idle hd (heng.trans he) ?_ ?_ hv hq
    · rw [ht]; exact h.idleErr ((busy_eq_false_iff s).mpr he)
    · rw [ht]; exact h.truncOk
  · obtain ⟨hsd, herr, htr⟩ := h.status_of_running he
    rw [hbuf ((busy_eq_true_iff s).mpr he)] at ht
    refine inv_of_running hd (heng ▸ he) ⟨hdone hsd, ?_, ?_⟩ hport (engineInv_congr (by rw [ht]) h.engine)
    · rw [ht]; exact herr
    · rw [ht]; exact htr

theorem inv_writeReg (d : Word) (r : HostReg) {s : State} (h : Inv s) : Inv (writeReg d s r) := by
  obtain ⟨ht, hc, hl, hlatched⟩ := h.widths
  have hf := fitsAddr_addrField s.cfg d
  cases r with
  | cmd => exact h
  | result => exact h
  | status => exact h.of_outside rfl { h.data with } (fun hd => by simp [writeReg, hd]) fun _ => rfl
  | ctrl => exact h.of_outside rfl { h.data with } id fun _ => rfl
  | flags => exact h.of_outside rfl { h.data with } id fun _ => rfl
  | textLen => exact h.of_outside rfl { h.data with widths := ⟨hf, hc, hl, hlatched⟩ } id fun _ => rfl
  | capacity => exact h.of_outside rfl { h.data with widths := ⟨ht, hf, hl, hlatched⟩ } id fun _ => rfl
  | length => exact h.of_outside rfl { h.data with widths := ⟨ht, hc, hf, hlatched⟩ } id fun _ => rfl

theorem inv_hostWrite {addr : BitVec 18} {width : Nat} {d : Word} {s t : State} (h : Inv s)
    (ht : hostWrite addr width d s = .next t) : Inv t := by
  rcases hostWrite_cases ht with ht | ⟨r, rfl⟩ | ⟨_, a, ha, rfl⟩ | ⟨hb, a, ha, rfl⟩ | rfl
  · exact inv_writeCmd h ht
  · exact inv_writeReg d r h
  · exact h.of_outside rfl { h.data with text := memoryFits_write _ h.data.text ha } id fun _ => rfl
  · exact h.of_outside rfl { h.data with buf := memoryFits_write _ h.data.buf ha } id fun hb' => by simp [hb] at hb'
  · exact h

theorem inv_hostAccess {op : BusOp} {s t : State} (h : Inv s) (ht : hostAccess op s = .next t) : Inv t := by
  cases op with
  | read addr width =>
    obtain ⟨v, n, rfl⟩ := hostRead_cases ht
    exact h.of_outside rfl { h.data with } id fun _ => rfl
  | write addr width d => exact inv_hostWrite h ht

/-! ### Reset -/

/-- A reset gives R46's values; BUF loses bytes and gains none (R270). -/
theorem inv_resetBlock {s : State} (h : Inv s) : Inv (resetBlock s) := by
  have hbuf : MemoryFits (resetBlock s).buf s.cfg.bufSize := by
    rw [resetBlock]
    split
    · exact memoryFits_forget _ h.data.buf
    · exact h.data.buf
  have hz : fitsAddr s.cfg 0 := by rw [fitsAddr]; exact Nat.two_pow_pos _
  exact inv_of_idle ⟨h.config, h.text, hbuf, ⟨hz, hz, hz, hz, hz, hz⟩, BitVec.zero_and⟩ rfl
    (show false = (0#32).msb by decide) (fun _ => rfl) rfl rfl

end Sys2Proof.Machine
end

section
/-! SUPPORT. The encoder's engine steps keep the invariant: E_CLEAR, E_SCAN, E_TERM and E_FIN. -/

namespace Sys2Proof.Machine

/-! ### The loop's head -/

/-- A running ENCODE whose cursors are in range goes on in E_SCAN or E_TERM within the invariant (R161). -/
theorem inv_toScanOrTerm {s : State} (hr : SilentRun s) (ho : EncodeOperands s) (hb : bufCleared s)
    (hm : withinMargin s) (hi : s.i ≤ s.tlen.toNat) : Inv (toScanOrTerm s) := by
  rw [toScanOrTerm]
  cases hs : s.scanning with
  | true =>
    simp only [State.scanning, Bool.and_eq_true, decide_eq_true_eq, Bool.not_eq_true'] at hs
    exact SilentRun.inv { hr with } (by simp) (by simp) ((engineInv_eScan rfl).mpr ⟨{ ho with }, hb, hm, hs⟩)
  | false => exact SilentRun.inv { hr with } (by simp) (by simp) ((engineInv_eTerm rfl).mpr ⟨{ ho with }, hb, hm, hi⟩)

/-! ### E_CLEAR -/

/-- One more byte cleared (R143). -/
theorem read_write_cleared {m : Memory} {j : Nat} (h : ∀ a, a < j → m.read a = some 0#8) (a : Nat) (ha : a < j + 1) :
    (m.write j 0#8).read a = some 0#8 := by
  rw [Memory.read_write]
  split
  · rfl
  · exact h a (by omega)

theorem inv_clearStep {s t : State} (h : Inv s) (he : s.eng = .eClear) (ht : (clearStep s).toOutcome = .next t) :
    Inv t := by
  obtain ⟨ho, hj, hz⟩ := (engineInv_eClear he).mp h.engine
  have hz' := read_write_cleared hz
  have hr : SilentRun (writeBuf s.j 0#8 s) :=
    { h.silentRun (by simp [he]) (by simp [he]) with
      buf := memoryFits_write _ h.data.buf (Nat.lt_of_lt_of_le hj ho.capHigh) }
  rw [clearStep_of_lt hj] at ht
  split at ht
  · next hlt =>
    cases ht
    exact SilentRun.inv { hr with } (by simp [he]) (by simp [he])
      ((engineInv_eClear (s := { writeBuf s.j 0#8 s with j := s.j + 1 }) he).mpr ⟨{ ho with }, hlt, hz'⟩)
  · next hge =>
    cases ht
    refine inv_toScanOrTerm { hr with } { ho with } (fun a ha => ?_) ⟨Nat.zero_le _, Nat.zero_le _⟩ (Nat.zero_le _)
    have ha : a < s.cap.toNat := ha
    exact Option.isSome_of_mem (hz' a (by omega))

/-! ### What an append keeps -/

theorem effective_add_threshold {s : State} (h : EncodeOperands s) : effective s + 2 = s.cap.toNat :=
  Nat.sub_add_cancel h.capLow

/-- An append over a cleared buffer answers a value, moves the cursors within its limit and keeps the buffer cleared and
within its size (R146, R153, R155). -/
theorem append_keeps {cc : Code} {limit size : Nat} {s : State} (hl : limit ≤ s.cap.toNat) (hb : bufCleared s)
    (hp : s.p ≤ limit) (hk : s.k ≤ 4 * limit) (hs : MemoryFits s.buf size) (hsize : s.cap.toNat ≤ size) :
    ∃ p k buf fits, append cc limit s = .ok ({ s with p := p, k := k, buf := buf }, fits) ∧ p ≤ limit ∧ k ≤ 4 * limit ∧
      bufCleared { s with p := p, k := k, buf := buf } ∧ MemoryFits buf size := by
  rcases append_cases rfl hl hb with h | ⟨_, hf, h⟩ | ⟨_, hf, h⟩
  · exact ⟨s.p, s.k, s.buf, _, h, hp, hk, hb, hs⟩
  · exact ⟨_, s.k, _, _, h, hf, hk, bufCleared_append h hl hb, memoryFits_writeList hs (by omega)⟩
  · exact ⟨s.p, _, _, _, h, hp, hf, bufCleared_append h hl hb, memoryFits_orList hs (by omega)⟩

/-! ### E_SCAN -/

theorem lookup_ne_ended (rom : List Code) (first c : Byte) (u : State) : lookup rom first c ≠ .ended u := by
  rw [lookup]
  split
  · split <;> simp
  · simp

/-- No class ends the command: RESOLVE answers or faults (R106, R145). -/
theorem resolve_ne_ended (c : Config) (cls : CharClass) (u : State) : resolve c cls ≠ .ended u := by
  intro h
  cases cls with
  | letter ch =>
    rcases Micro.bind_eq_ended h with h | ⟨_, _, h⟩
    · exact lookup_ne_ended _ _ _ _ h
    · cases h
  | number ch =>
    rcases Micro.bind_eq_ended h with h | ⟨_, _, h⟩
    · exact lookup_ne_ended _ _ _ _ h
    · cases h
  | space => cases h
  | stop => cases h
  | ignored => cases h

/-- What an iteration of the main loop can do (R140, R145, R150): fault, pass over the byte, or append its code. -/
theorem scanStep_cases {s : State} (hs : s.scanning = true) :
    (∃ f, scanStep s = .fault f) ∨ scanStep s = .ok (toScanOrTerm { s with i := s.i + 1 }) ∨
    (∃ cc, scanStep s = (append cc (effective s) { s with i := s.i + 1, cc := cc }).bind fun r =>
      .ok (toScanOrTerm (haltUnless r.2 r.1))) := by
  cases hr : s.text.read s.i with
  | none => exact .inl ⟨_, scanStep_of_unwritten hs hr⟩
  | some v =>
    cases hc : resolve s.cfg (classify v) with
    | ok code =>
      cases code with
      | none => exact .inr (.inl (scanStep_of_ignored hs hr hc))
      | some cc => exact .inr (.inr ⟨cc, scanStep_of_code hs hr hc⟩)
    | ended u => exact absurd hc (resolve_ne_ended _ _ _)
    | fault f => exact .inl ⟨f, by simp [scanStep, hs, readText_of_some hr, hc]⟩

/-- The append's answer changes `s.halted` only (R150). -/
theorem haltUnless_eq (fits : Bool) (s : State) : ∃ b, haltUnless fits s = { s with halted := b } := by
  cases fits
  · exact ⟨true, rfl⟩
  · exact ⟨s.halted, rfl⟩

theorem inv_scanStep {s t : State} (h : Inv s) (he : s.eng = .eScan) (ht : (scanStep s).toOutcome = .next t) :
    Inv t := by
  obtain ⟨ho, hb, ⟨hp, hk⟩, hi, hh⟩ := (engineInv_eScan he).mp h.engine
  have hr : SilentRun s := h.silentRun (by simp [he]) (by simp [he])
  have hcap := effective_add_threshold ho
  rcases scanStep_cases (s := s) (by simp [State.scanning, hi, hh]) with ⟨f, hm⟩ | hm | ⟨cc, hm⟩ <;> rw [hm] at ht
  · cases ht
  · cases ht
    exact inv_toScanOrTerm { hr with } { ho with } hb ⟨hp, hk⟩ hi
  · obtain ⟨p, k, buf, fits, ha, hp', hk', hb', hs'⟩ :=
      append_keeps (cc := cc) (limit := effective s) (s := { s with i := s.i + 1, cc := cc }) (by simp only; omega)
        hb hp hk h.data.buf ho.capHigh
    obtain ⟨halted, hu⟩ := haltUnless_eq fits { s with i := s.i + 1, cc := cc, p := p, k := k, buf := buf }
    rw [ha, Micro.bind_ok, hu] at ht
    cases ht
    exact inv_toScanOrTerm { hr with buf := hs' } { ho with } hb' ⟨hp', hk'⟩ hi

/-! ### E_TERM and E_FIN -/

/-- The returned length is within a bound that holds the cursors (R157). -/
theorem encodedLength_le {s : State} {n : Nat} (hp : s.p ≤ n) (hk : s.k ≤ 4 * n) : encodedLength s ≤ n := by
  rcases mode_cases s with hm | hm <;> simp only [encodedLength, hm] <;> omega

/-- The two bytes or eight groups of END_STOP fit behind the margin, so the returned length is 2 at least (R151). -/
theorem encodedLength_append_endStop {s : State} {r : State × Bool} (ho : EncodeOperands s) (hm : withinMargin s)
    (hb : bufCleared s) (h : append endStop s.cap.toNat s = .ok r) : 2 ≤ encodedLength r.1 := by
  obtain ⟨hp, hk⟩ := hm
  have hcap := effective_add_threshold ho
  rcases mode_cases s with hmode | hmode
  · have hlen : (record endStop).length = 2 := by rw [record_endStop]; rfl
    rw [append_of_aligned _ _ hmode, appendAligned_of_fits (by omega) (Nat.le_refl _)] at h
    cases h
    simp [encodedLength, hmode, hlen]
  · have hlen : (run s.cfg endStop).length = 8 := by rw [run_endStop]; rfl
    rw [append_of_compact _ _ hmode, appendCompact_of_fits (by omega) (Nat.le_refl _) hb] at h
    cases h
    simp only [encodedLength, hmode, hlen]
    omega

theorem inv_termStep {s t : State} (h : Inv s) (he : s.eng = .eTerm) (ht : (termStep s).toOutcome = .next t) :
    Inv t := by
  obtain ⟨ho, hb, hm, hi⟩ := (engineInv_eTerm he).mp h.engine
  have ⟨hp, hk⟩ := hm
  have hr : SilentRun s := h.silentRun (by simp [he]) (by simp [he])
  have hcap := effective_add_threshold ho
  obtain ⟨p, k, buf, fits, ha, hp', hk', hb', hs'⟩ :=
    append_keeps (cc := endStop) (Nat.le_refl _) hb (by omega) (by omega) h.data.buf ho.capHigh
  rw [termStep, ha, Micro.bind_ok] at ht
  cases ht
  exact SilentRun.inv { hr with buf := hs' } (by simp) (by simp) ((engineInv_eFin rfl).mpr
    ⟨{ ho with }, hb', encodedLength_append_endStop ho hm hb ha, encodedLength_le hp' hk', hi⟩)

/-- The returned length is below the sign bit, so E_FIN reports a success (R150, R245). -/
theorem inv_finStep {s : State} (h : Inv s) (he : s.eng = .eFin) : Inv (finStep s) := by
  obtain ⟨_, _, _, hL, _⟩ := (engineInv_eFin he).mp h.engine
  have hr : SilentRun s := h.silentRun (by simp [he]) (by simp [he])
  have hmsb : (BitVec.ofNat 32 (encodedLength s)).msb = false := by
    have hcap := s.cap.isLt
    rw [BitVec.msb_eq_false_iff_two_mul_lt, BitVec.toNat_ofNat]
    omega
  exact inv_of_idle { hr with } rfl rfl (fun _ => hmsb) hr.evValid hr.queue

end Sys2Proof.Machine
end

section
/-! SUPPORT. The dispatcher's steps and the collaborator keep the invariant: D_WALK and the acceptance of an event. -/

namespace Sys2Proof.Machine

/-! ### The walk goes on or is over -/

/-- With nothing to deliver, a DISPATCH whose cursor is in range goes on in D_WALK or D_FIN (R209). -/
theorem inv_walkOrFin {s : State} (hr : SilentRun s) (ho : DispatchOperands s) (hbi : s.bi ≤ s.dlen.toNat)
    (hb : byteHeld s) : Inv { s with eng := if s.allVisited then .dFin else .dWalk } := by
  by_cases hv : s.dlen.toNat ≤ s.bi
  · simp only [State.allVisited, hv, decide_true, if_true]
    exact SilentRun.inv { hr with } (by simp) (by simp)
      ((engineInv_dFin rfl).mpr ⟨{ ho with }, Nat.le_antisymm hbi hv⟩)
  · simp only [State.allVisited, hv, decide_false, Bool.false_eq_true, if_false]
    exact SilentRun.inv { hr with } (by simp) (by simp)
      ((engineInv_dWalk rfl).mpr ⟨{ ho with }, .inl (Nat.lt_of_not_le hv), hb⟩)

/-- The head of a queue of at most three events, presented in D_EMIT (R43, R209). -/
theorem inv_present {s : State} {e : Event} {es : List Event} (hd : DataInv s)
    (hst : s.done = false ∧ s.err = false ∧ s.trunc = false) (he : s.eng = .dEmit) (hq : s.q = e :: es)
    (hlen : s.q.length ≤ 3) (hi : EngineInv s) : Inv (present e s) :=
  inv_of_running { hd with } (by simp [he]) hst
    ((portInv_iff_of_dEmit (s := present e s) he hq).mpr ⟨rfl, hlen, rfl, rfl⟩) (engineInv_congr rfl hi)

/-- After a walk step that queued at most three events (R42, R209). -/
theorem inv_toEmitOrWalk {s : State} {q : List Event} (hr : SilentRun s) (hq : q.length ≤ 3) (ho : DispatchOperands s)
    (hbi : s.bi ≤ s.dlen.toNat) (hb : byteHeld s) : Inv (toEmitOrWalk { s with q := q }) := by
  cases q with
  | nil =>
    rw [toEmitOrWalk_of_nil rfl]
    exact inv_walkOrFin { hr with queue := rfl } { ho with } hbi hb
  | cons e es =>
    rw [toEmitOrWalk_of_cons rfl]
    exact inv_present { hr with } ⟨hr.done, hr.err, hr.trunc⟩ rfl rfl hq
      ((engineInv_dEmit rfl).mpr ⟨{ ho with }, hbi, hb⟩)

/-! ### One slot visited -/

/-- The last flush adds at most one event, and none when no silence is pending (R199, R200). -/
theorem finalFlush_eq (s : State) :
    ∃ q, finalFlush s = { s with q := q } ∧ q.length ≤ s.q.length + 1 ∧ (s.cnt = 0#4 → q = s.q) := by
  by_cases hv : s.allVisited = true
  · refine ⟨s.q ++ flushEvents s, by rw [finalFlush, if_pos hv], ?_, fun hc => by simp [flushEvents, hc]⟩
    rw [List.length_append]
    exact Nat.add_le_add_left (length_flushEvents s) _
  · exact ⟨s.q, by rw [finalFlush, if_neg hv], by omega, fun _ => rfl⟩

/-- The cursor leaves the byte for slot 0 of the next one, or stays in it (R193). -/
theorem advanceSlot_cases (s : State) :
    advanceSlot s = { s with bi := s.bi + 1, slot := 0 } ∨ advanceSlot s = { s with slot := s.slot + 1 } := by
  rw [advanceSlot]
  split
  · exact .inl rfl
  · exact .inr rfl

/-- One slot visited from an empty queue: at most three events queued, the cursor in the same byte or at the start of
the next one, and nothing else but the count changed (R42, R193). -/
theorem visitSlot_eq (sym : Sym) {s : State} (hq : s.q = []) :
    ∃ q cnt bi slot,
      finalFlush (advanceSlot (visitSymbol sym s)) = { s with q := q, cnt := cnt, bi := bi, slot := slot } ∧
      q.length ≤ 3 ∧ (bi = s.bi ∨ bi = s.bi + 1 ∧ slot = 0) := by
  obtain ⟨q, cnt, hvisit, hlen, hkeep⟩ := visitSymbol_eq sym s
  have hq0 : s.q.length = 0 := by simp [hq]
  rw [hvisit]
  have hflush : ∀ q' : List Event, q'.length ≤ q.length + 1 → (cnt = 0#4 → q' = q) → q'.length ≤ 3 := by
    intro q' hle hsame
    by_cases hc : cnt = 0#4
    · rw [hsame hc]; omega
    · rw [hkeep hc] at hle; omega
  rcases advanceSlot_cases { s with q := q, cnt := cnt } with ha | ha <;> rw [ha]
  · obtain ⟨q', hf, hle, hsame⟩ := finalFlush_eq { s with q := q, cnt := cnt, bi := s.bi + 1, slot := 0 }
    exact ⟨q', cnt, _, _, hf, hflush q' hle hsame, .inr ⟨rfl, rfl⟩⟩
  · obtain ⟨q', hf, hle, hsame⟩ := finalFlush_eq { s with q := q, cnt := cnt, slot := s.slot + 1 }
    exact ⟨q', cnt, s.bi, _, hf, hflush q' hle hsame, .inl rfl⟩

/-! ### D_WALK -/

theorem inv_walkStep {s t : State} (h : Inv s) (he : s.eng = .dWalk) (ht : (walkStep s).toOutcome = .next t) :
    Inv t := by
  obtain ⟨ho, hbi, hheld⟩ := (engineInv_dWalk he).mp h.engine
  have hr : SilentRun s := h.silentRun (by simp [he]) (by simp [he])
  rcases walkStep_cases rfl with ⟨_, hm⟩ | ⟨_, _, _, hm⟩ | ⟨hv, v, hread, hkept, hm⟩ <;> rw [hm] at ht
  · cases ht
    obtain ⟨q, hf, hlen, _⟩ := finalFlush_eq s
    rw [hr.queue] at hlen
    rw [hf]
    exact inv_toEmitOrWalk hr (Nat.le_trans hlen (by decide)) ho (by omega) hheld
  · cases ht
  · cases ht
    have hlt : s.bi < s.dlen.toNat := by simpa [State.allVisited] using hv
    have hbyte : s.buf.read s.bi = some v := by
      by_cases hs : s.slot = 0
      · exact hread hs
      · rw [← hkept hs]; exact hheld hs
    obtain ⟨q, cnt, bi, slot, hvisit, hlen, hcursor⟩ :=
      visitSlot_eq (slotOf v s.slot.val) (s := { s with b := v }) hr.queue
    rw [hvisit]
    refine inv_toEmitOrWalk (s := { s with b := v, cnt := cnt, bi := bi, slot := slot }) { hr with } hlen
      { ho with } ?_ ?_
    · rcases hcursor with rfl | ⟨rfl, _⟩
      · exact Nat.le_of_lt hlt
      · exact hlt
    · intro hs
      rcases hcursor with rfl | ⟨_, h0⟩
      · exact hbyte
      · exact absurd h0 hs

/-! ### The collaborator -/

/-- An event on the port is one of a DISPATCH that waits in D_EMIT (R43). -/
theorem Inv.dEmit_of_evValid {s : State} (h : Inv s) (hv : s.evValid = true) : s.eng = .dEmit := by
  simpa [hv] using h.port.1

theorem inv_acceptEvent {s : State} (h : Inv s) : Inv (acceptEvent s) := by
  rcases acceptEvent_cases s with ⟨_, ha⟩ | ⟨e, hv, hq, ha⟩ | ⟨e, e', es, hv, hq, ha⟩
  · rw [ha]
    exact h
  · have he := h.dEmit_of_evValid hv
    obtain ⟨ho, hbi, hb⟩ := (engineInv_dEmit he).mp h.engine
    obtain ⟨hdone, herr, htr⟩ := h.status_of_running (by simp [he])
    rw [ha]
    exact inv_walkOrFin (s := withdraw { s with delivered := s.delivered ++ [e], q := [] })
      { h.data with done := hdone, err := herr, trunc := htr, evValid := rfl, queue := rfl } { ho with } hbi hb
  · have he := h.dEmit_of_evValid hv
    have hlen := h.port.2.1
    rw [hq] at hlen
    rw [ha]
    exact inv_present { h.data with } (h.status_of_running (by simp [he])) he rfl (Nat.le_of_succ_le hlen)
      (engineInv_congr (s := s) rfl h.engine)

end Sys2Proof.Machine
end

section
/-! SUPPORT. Every agent's step keeps the invariant. -/

namespace Sys2Proof.Machine

/-- The core's step keeps the invariant, engine state by engine state (R161, R209, R232). -/
theorem inv_coreStep {s t : State} (h : Inv s) (ht : coreStep s = .next t) : Inv t := by
  cases he : s.eng <;> simp only [coreStep, he] at ht
  case idle | dEmit => cases ht; exact h
  case eClear => exact inv_clearStep h he ht
  case eScan => exact inv_scanStep h he ht
  case eTerm => exact inv_termStep h he ht
  case eFin => cases ht; exact inv_finStep h he
  case dWalk => exact inv_walkStep h he ht
  case dFin | xDecode => cases ht; exact (h.silentRun (by simp [he]) (by simp [he])).inv_finish _

/-- One atomic step of any agent keeps the invariant (R19). -/
theorem inv_act {a : Action} {s t : State} (h : Inv s) (ht : act a s = .next t) : Inv t := by
  cases a with
  | host op => exact inv_hostAccess h ht
  | core => exact inv_coreStep h ht
  | accept => cases ht; exact inv_acceptEvent h
  | reset => cases ht; exact inv_resetBlock h

/-- The invariant does not read the schedule. -/
theorem Inv.withSchedule {s : State} (h : Inv s) (rest : List Action) : Inv { s with schedule := rest } :=
  h.of_outside rfl { h.data with } id fun _ => rfl

/-- Settles O59: the step is one agent's, and each agent's step keeps the invariant. -/
theorem everyStepKeepsTheInvariant : Obligations.EveryStepKeepsTheInvariant := by
  intro s t h ht
  rcases step_cases h.config with ⟨_, hstep⟩ | ⟨a, rest, _, hstep⟩ <;> rw [hstep] at ht
  · exact inv_coreStep h ht
  · exact inv_act (h.withSchedule rest) ht

end Sys2Proof.Machine
end

section
/-! SUPPORT. What one core step can do in any state, invariant or not: it goes on with its command or completes it. -/

namespace Sys2Proof.Machine

/-! ### The frame of a core step that does not complete its command -/

/-- `t` differs from `s` only where a running command works: BUF below the latched capacity, the engine state, the
datapath, the queue and the port (R36, R39, R246).  No status bit and no RESULT is among them. -/
structure RunFrame (s t : State) : Prop where
  fields : t = { s with buf := t.buf, eng := t.eng, i := t.i, p := t.p, k := t.k, halted := t.halted, cc := t.cc,
                        j := t.j, bi := t.bi, slot := t.slot, cnt := t.cnt, b := t.b, q := t.q,
                        evValid := t.evValid, evKind := t.evKind, evFlags := t.evFlags }
  buf : ∀ a, s.cap.toNat ≤ a → t.buf.read a = s.buf.read a

theorem RunFrame.cap_eq {s t : State} (h : RunFrame s t) : t.cap = s.cap := by rw [h.fields]

theorem RunFrame.result_eq {s t : State} (h : RunFrame s t) : t.result = s.result := by rw [h.fields]

theorem RunFrame.trans {s t u : State} (h : RunFrame s t) (h' : RunFrame t u) : RunFrame s u where
  fields := by
    rw [h'.fields, h.fields]
  buf a ha := by
    rw [h'.buf a (by rw [h.cap_eq]; exact ha), h.buf a ha]

/-- An update of the datapath that stores no byte is within the frame. -/
theorem RunFrame.of_buf_eq {s t : State}
    (hf : t = { s with eng := t.eng, i := t.i, p := t.p, k := t.k, halted := t.halted, cc := t.cc, j := t.j,
                       bi := t.bi, slot := t.slot, cnt := t.cnt, b := t.b, q := t.q, evValid := t.evValid,
                       evKind := t.evKind, evFlags := t.evFlags }) : RunFrame s t := by
  have hbuf : t.buf = s.buf := by rw [hf]
  exact ⟨by rw [hbuf]; exact hf, fun _ _ => by rw [hbuf]⟩

/-- A byte stored below the latched capacity is within the frame (R156). -/
theorem runFrame_writeBuf {a : Nat} (v : Byte) {s : State} (h : a < s.cap.toNat) : RunFrame s (writeBuf a v s) :=
  ⟨rfl, fun a' ha' => Memory.read_write_other s.buf v (by omega)⟩

/-! ### Micro-operations within the frame -/

/-- A micro-operation of a command running in `s`: its value carries a state within the frame, and where it ends the
command it is by `finish` from such a state (R156, R245). -/
structure MicroFrame {α : Type} (s : State) (stateOf : α → State) (m : Micro α) : Prop where
  ok : ∀ a, m = .ok a → RunFrame s (stateOf a)
  ended : ∀ u, m = .ended u → ∃ v w, RunFrame s w ∧ u = finish v w

theorem microFrame_ok {α : Type} {s : State} {stateOf : α → State} {a : α} (h : RunFrame s (stateOf a)) :
    MicroFrame s stateOf (.ok a) where
  ok _ ha := by cases ha; exact h
  ended _ hu := by cases hu

theorem microFrame_fault {α : Type} (s : State) (stateOf : α → State) (f : Fault) :
    MicroFrame s stateOf (.fault f) where
  ok _ ha := by cases ha
  ended _ hu := by cases hu

theorem microFrame_ended {α : Type} {s w : State} (stateOf : α → State) (v : Word) (h : RunFrame s w) :
    MicroFrame s stateOf (.ended (finish v w)) where
  ok _ ha := by cases ha
  ended _ hu := by cases hu; exact ⟨v, w, h, rfl⟩

theorem MicroFrame.of_runFrame {α : Type} {s t : State} {stateOf : α → State} {m : Micro α}
    (h : MicroFrame t stateOf m) (ht : RunFrame s t) : MicroFrame s stateOf m where
  ok a hm := ht.trans (h.ok a hm)
  ended u hu := by
    obtain ⟨v, w, hw, hu⟩ := h.ended u hu
    exact ⟨v, w, ht.trans hw, hu⟩

theorem MicroFrame.bind {α β : Type} {s : State} {stateOf : α → State} {stateOf' : β → State} {m : Micro α}
    {f : α → Micro β} (h : MicroFrame s stateOf m) (hf : ∀ a, MicroFrame (stateOf a) stateOf' (f a)) :
    MicroFrame s stateOf' (m.bind f) where
  ok b hb := by
    obtain ⟨a, hm, hb⟩ := Micro.bind_eq_ok hb
    exact (h.ok a hm).trans ((hf a).ok b hb)
  ended u hu := by
    rcases Micro.bind_eq_ended hu with hm | ⟨a, hm, hu⟩
    · exact h.ended u hm
    · exact ((hf a).of_runFrame (h.ok a hm)).ended u hu

/-! ### The encoder -/

theorem microFrame_boundedWrite (a : Nat) (v : Byte) (s : State) : MicroFrame s id (boundedWrite a v s) := by
  rcases Nat.lt_or_ge a s.cap.toNat with h | h
  · rw [boundedWrite_of_lt v h]
    exact microFrame_ok (runFrame_writeBuf v h)
  · rw [boundedWrite_of_ge v h]
    exact microFrame_ended id _ (.of_buf_eq rfl)

theorem microFrame_boundedGroup (k : Nat) (g : Sym) (s : State) : MicroFrame s id (boundedGroup k g s) := by
  rcases Nat.lt_or_ge (k / 4) s.cap.toNat with h | h
  · cases hr : s.buf.read (k / 4) with
    | none =>
      rw [show boundedGroup k g s = .fault .unwrittenRead by simp [boundedGroup, h, orGroup, readBuf_of_none hr]]
      exact microFrame_fault s id _
    | some v =>
      rw [boundedGroup_of_lt g h hr]
      exact microFrame_ok (runFrame_writeBuf _ h)
  · rw [boundedGroup_of_ge g h]
    exact microFrame_ended id _ (.of_buf_eq rfl)

theorem microFrame_putRecord (vs : List Byte) (s : State) : MicroFrame s id (putRecord vs s) := by
  induction vs generalizing s with
  | nil => exact microFrame_ok (.of_buf_eq rfl)
  | cons v vs ih =>
    exact ((microFrame_boundedWrite s.p v s).bind fun _ => microFrame_ok (.of_buf_eq rfl)).bind ih

theorem microFrame_putRun (gs : List Sym) (s : State) : MicroFrame s id (putRun gs s) := by
  induction gs generalizing s with
  | nil => exact microFrame_ok (.of_buf_eq rfl)
  | cons g gs ih =>
    exact ((microFrame_boundedGroup s.k g s).bind fun _ => microFrame_ok (.of_buf_eq rfl)).bind ih

theorem microFrame_append (cc : Code) (limit : Nat) (s : State) : MicroFrame s Prod.fst (append cc limit s) := by
  rcases mode_cases s with hm | hm
  · rw [append_of_aligned cc limit hm, appendAligned]
    split
    · exact microFrame_ok (.of_buf_eq rfl)
    · exact (microFrame_putRecord _ s).bind fun _ => microFrame_ok (.of_buf_eq rfl)
  · rw [append_of_compact cc limit hm, appendCompact]
    split
    · exact microFrame_ok (.of_buf_eq rfl)
    · exact (microFrame_putRun _ s).bind fun _ => microFrame_ok (.of_buf_eq rfl)

theorem microFrame_clearStep (s : State) : MicroFrame s id (clearStep s) := by
  refine (microFrame_boundedWrite s.j 0#8 s).bind fun u => ?_
  split
  · exact microFrame_ok (.of_buf_eq rfl)
  · exact microFrame_ok (.of_buf_eq rfl)

theorem microFrame_scanStep (s : State) : MicroFrame s id (scanStep s) := by
  cases hs : s.scanning with
  | false =>
    rw [show scanStep s = .ok { s with eng := .eTerm } by simp [scanStep, hs]]
    exact microFrame_ok (.of_buf_eq rfl)
  | true =>
    rcases scanStep_cases hs with ⟨f, hm⟩ | hm | ⟨cc, hm⟩ <;> rw [hm]
    · exact microFrame_fault s id f
    · exact microFrame_ok (.of_buf_eq rfl)
    · have happend := microFrame_append cc (effective s) { s with i := s.i + 1, cc := cc }
      refine (happend.of_runFrame (.of_buf_eq rfl)).bind fun r => ?_
      obtain ⟨b, hb⟩ := haltUnless_eq r.2 r.1
      rw [hb]
      exact microFrame_ok (.of_buf_eq rfl)

theorem microFrame_termStep (s : State) : MicroFrame s id (termStep s) :=
  (microFrame_append endStop s.cap.toNat s).bind fun _ => microFrame_ok (.of_buf_eq rfl)

/-! ### The dispatcher -/

/-- After a walk step only the engine state and the port have changed (R209). -/
theorem toEmitOrWalk_eq (s : State) :
    ∃ eng valid kind flags,
      toEmitOrWalk s = { s with eng := eng, evValid := valid, evKind := kind, evFlags := flags } := by
  rw [toEmitOrWalk]
  split
  · exact ⟨_, _, _, _, rfl⟩
  · exact ⟨_, _, _, _, rfl⟩

/-- D_WALK works on the walk's own items, the queue and the port, and stores no byte (R190, R202). -/
theorem walkStep_eq {s t : State} (h : (walkStep s).toOutcome = .next t) :
    t = { s with eng := t.eng, bi := t.bi, slot := t.slot, cnt := t.cnt, b := t.b, q := t.q, evValid := t.evValid,
                 evKind := t.evKind, evFlags := t.evFlags } := by
  rcases walkStep_cases rfl with ⟨_, hm⟩ | ⟨_, _, _, hm⟩ | ⟨_, v, _, _, hm⟩ <;> rw [hm] at h <;> cases h
  · obtain ⟨q, hf, _⟩ := finalFlush_eq s
    obtain ⟨eng, valid, kind, flags, he⟩ := toEmitOrWalk_eq { s with q := q }
    rw [hf, he]
  · obtain ⟨q, cnt, hvisit, _⟩ := visitSymbol_eq (slotOf v s.slot.val) { s with b := v }
    obtain ⟨bi, slot, hadv⟩ := advanceSlot_eq { s with b := v, q := q, cnt := cnt }
    obtain ⟨q', hf, _⟩ := finalFlush_eq { s with b := v, q := q, cnt := cnt, bi := bi, slot := slot }
    obtain ⟨eng, valid, kind, flags, he⟩ :=
      toEmitOrWalk_eq { s with b := v, q := q', cnt := cnt, bi := bi, slot := slot }
    rw [hvisit, hadv, hf, he]

/-! ### The core's step -/

/-- A core step goes on within the frame, or it completes the running command: from such a state it sets TRUNC, and
`finish` does the rest (R161, R209, R245). -/
def StepFrame (s t : State) : Prop :=
  RunFrame s t ∨ (s.busy = true ∧ ∃ v trunc w, RunFrame s w ∧ t = finish v { w with trunc := trunc })

theorem MicroFrame.stepFrame {s t : State} {m : Micro State} (h : MicroFrame s id m) (hb : s.eng ≠ .idle)
    (ht : m.toOutcome = .next t) : StepFrame s t := by
  rcases Micro.toOutcome_eq_next ht with hm | hm
  · exact .inl (h.ok t hm)
  · obtain ⟨v, w, hw, rfl⟩ := h.ended t hm
    exact .inr ⟨(busy_eq_true_iff s).mpr hb, v, w.trunc, w, hw, rfl⟩

theorem stepFrame_finish {s : State} (v : Word) (trunc : Bool) (hb : s.eng ≠ .idle) :
    StepFrame s (finish v { s with trunc := trunc }) :=
  .inr ⟨(busy_eq_true_iff s).mpr hb, v, trunc, s, .of_buf_eq rfl, rfl⟩

theorem stepFrame_coreStep {s t : State} (h : coreStep s = .next t) : StepFrame s t := by
  cases he : s.eng <;> simp only [coreStep, he] at h
  case idle | dEmit => cases h; exact .inl (.of_buf_eq rfl)
  case eClear => exact (microFrame_clearStep s).stepFrame (by simp [he]) h
  case eScan => exact (microFrame_scanStep s).stepFrame (by simp [he]) h
  case eTerm => exact (microFrame_termStep s).stepFrame (by simp [he]) h
  case eFin => cases h; exact stepFrame_finish _ s.halted (by simp [he])
  case dWalk => exact .inl (.of_buf_eq (by rw [walkStep_eq h]))
  case dFin | xDecode => cases h; exact stepFrame_finish 0#32 s.trunc (by simp [he])

/-- No core step but an ENCODE's stores a byte (R202, R232). -/
theorem coreStep_buf_of_not_encoding {s t : State} (hn : s.encoding = false) (h : coreStep s = .next t) :
    t.buf = s.buf := by
  cases he : s.eng <;> simp only [coreStep, he] at h
  case eClear | eScan | eTerm | eFin => simp [State.encoding, he] at hn
  case idle | dEmit | dFin | xDecode => cases h; rfl
  case dWalk => rw [walkStep_eq h]

/-- What every core step keeps, whether or not it completes the command (R36, R79, R107, R246). -/
theorem StepFrame.fields {s t : State} (h : StepFrame s t) :
    t = { s with done := t.done, err := t.err, trunc := t.trunc, result := t.result, buf := t.buf, eng := t.eng,
                 i := t.i, p := t.p, k := t.k, halted := t.halted, cc := t.cc, j := t.j, bi := t.bi, slot := t.slot,
                 cnt := t.cnt, b := t.b, q := t.q, evValid := t.evValid, evKind := t.evKind,
                 evFlags := t.evFlags } := by
  rcases h with h | ⟨_, v, trunc, w, h, rfl⟩
  · rw [h.fields]
  · rw [h.fields]; rfl

theorem StepFrame.buf {s t : State} (h : StepFrame s t) {a : Nat} (ha : s.cap.toNat ≤ a) :
    t.buf.read a = s.buf.read a := by
  rcases h with h | ⟨_, v, trunc, w, h, rfl⟩ <;> exact h.buf a ha

/-- A core step that changes RESULT is the completion of the running command (R34, R245). -/
theorem StepFrame.completes_of_result_ne {s t : State} (h : StepFrame s t) (hne : t.result ≠ s.result) :
    s.busy = true ∧ t.busy = false ∧ t.done = true := by
  rcases h with h | ⟨hb, v, trunc, w, _, rfl⟩
  · exact absurd h.result_eq hne
  · exact ⟨hb, rfl, rfl⟩

/-- Settles O46: the frame of one core step, completing or not. -/
theorem coreStepFrame : Obligations.CoreStepFrame := by
  intro s t h
  have hf := stepFrame_coreStep h
  have hbuf : ∀ a, s.cap.toNat ≤ a → t.buf.read a = s.buf.read a := fun _ => hf.buf
  have hidle : s.encoding = false → ∀ a, t.buf.read a = s.buf.read a :=
    fun hn a => by rw [coreStep_buf_of_not_encoding hn h]
  rw [hf.fields]
  exact ⟨rfl, rfl, rfl, rfl, rfl, rfl, fun _ => rfl, rfl, rfl, rfl, rfl, rfl, rfl, rfl, rfl, rfl, rfl, hbuf, hidle⟩

/-- Settles O47: both engine states read the byte before they do anything else with it. -/
theorem coreReadOfUnwrittenByteFaults : Obligations.CoreReadOfUnwrittenByteFaults := by
  refine ⟨fun s he hs hr => ?_, fun s he hbi hslot hr => ?_⟩
  · simp only [coreStep, he]
    rw [scanStep_of_unwritten hs hr, Micro.toOutcome_fault]
  · have hv : s.allVisited = false := decide_eq_false (Nat.not_le.mpr hbi)
    simp only [coreStep, he]
    rw [walkStep, hv, currentByte, if_pos hslot, readBuf_of_none hr]
    rfl

end Sys2Proof.Machine
end

section
/-! SUPPORT. What a host transaction can do to RESULT: only a rejected command changes it. -/

namespace Sys2Proof.Machine

/-! ### A command's issue -/

/-- A rejection in one step: `finish` with an error code (R241, R243). -/
def RejectedAs (t : State) : Prop := ∃ v u, v.msb = true ∧ t = finish v u

theorem startEncode_keeps_or_rejects (mode : Mode) {s : State} (hc : s.cfg.wellFormed = true) :
    (startEncode mode s).result = s.result ∨ RejectedAs (startEncode mode s) := by
  obtain ⟨hcap, hrange, _, _⟩ := errors_of_wellFormed hc
  rcases startEncode_cases mode s with ⟨_, h⟩ | ⟨_, _, h⟩ | ⟨_, _, _, h⟩ <;> rw [h]
  · exact .inr ⟨_, s, hcap, rfl⟩
  · exact .inr ⟨_, s, hrange, rfl⟩
  · exact .inl rfl

theorem startDispatch_keeps_or_rejects {s : State} (hc : s.cfg.wellFormed = true) :
    (startDispatch s).result = s.result ∨ RejectedAs (startDispatch s) := by
  obtain ⟨_, hrange, _, _⟩ := errors_of_wellFormed hc
  rcases Nat.lt_or_ge s.cfg.bufSize s.dlen.toNat with h | h
  · rw [startDispatch_of_range h]
    exact .inr ⟨_, s, hrange, rfl⟩
  · rw [startDispatch_of_legal h]
    exact .inl rfl

/-- An issue changes RESULT only with BUSY = 0 and only when the command's start rejects it (R241, R242). -/
theorem issue_keeps_or_rejects {o : BitVec 2} {start : State → State} {s t : State}
    (hstart : ∀ u, u.cfg = s.cfg → (start u).result = u.result ∨ RejectedAs (start u))
    (h : issue o start s = .next t) : t.result = s.result ∨ (s.busy = false ∧ RejectedAs t) := by
  rcases issue_cases h with ⟨_, rfl⟩ | ⟨hb, rfl⟩
  · exact .inl rfl
  · exact (hstart (latch o (clearStatus s)) rfl).imp id fun hr => ⟨hb, hr⟩

theorem exec_keeps_or_rejects {i : Instr} {s t : State} (hc : s.cfg.wellFormed = true) (h : exec i s = .next t) :
    t.result = s.result ∨ (s.busy = false ∧ RejectedAs t) := by
  cases i with
  | encodeAligned | encodeCompact =>
    exact issue_keeps_or_rejects (fun _ hu => startEncode_keeps_or_rejects _ (hu ▸ hc)) h
  | dispatch => exact issue_keeps_or_rejects (fun _ hu => startDispatch_keeps_or_rejects (hu ▸ hc)) h
  | decode => exact issue_keeps_or_rejects (start := startDecode) (fun _ _ => .inl rfl) h

theorem illegalCommand_of_busy {s : State} (hb : s.busy = true) : illegalCommand s = .next s := by
  simp [illegalCommand, hb]

theorem illegalCommand_of_idle {s : State} (hb : s.busy = false) :
    illegalCommand s = .next (finish s.cfg.eIllegal (clearStatus s)) := by
  simp [illegalCommand, hb]

theorem writeCmd_keeps_or_rejects {w : Word} {s t : State} (hc : s.cfg.wellFormed = true)
    (h : writeCmd w s = .next t) : t.result = s.result ∨ (s.busy = false ∧ RejectedAs t) := by
  rcases writeCmd_cases w s with ⟨i, _, hw⟩ | ⟨_, hw⟩ <;> rw [hw] at h
  · exact exec_keeps_or_rejects hc h
  · cases hb : s.busy with
    | true => rw [illegalCommand_of_busy hb] at h; cases h; exact .inl rfl
    | false =>
      obtain ⟨_, _, hillegal, _⟩ := errors_of_wellFormed hc
      rw [illegalCommand_of_idle hb] at h
      cases h
      exact .inr ⟨rfl, _, _, hillegal, rfl⟩

/-! ### A host write -/

/-- A register write reaches the writable registers and DONE only (R28 to R34). -/
theorem writeReg_eq (d : Word) (s : State) (r : HostReg) :
    ∃ done irqEn textLen capacity length flags,
      writeReg d s r = { s with done := done, irqEn := irqEn, textLen := textLen, capacity := capacity,
                                length := length, flags := flags } := by
  cases r <;> exact ⟨_, _, _, _, _, _, rfl⟩

theorem writeTextByte_eq (a : Nat) (v : Byte) (s : State) : ∃ m, writeTextByte a v s = { s with text := m } := by
  rw [writeTextByte]
  split
  · exact ⟨_, rfl⟩
  · exact ⟨s.text, rfl⟩

theorem writeBufByte_eq (a : Nat) (v : Byte) (s : State) : ∃ m, writeBufByte a v s = { s with buf := m } := by
  rw [writeBufByte]
  split
  · exact ⟨_, rfl⟩
  · exact ⟨s.buf, rfl⟩

/-- A window access that answers a next state found the block idle and had its effect (R64, R73). -/
theorem windowAccess_eq_next {width : Nat} {effect : State → State} {s t : State}
    (h : windowAccess width effect s = .next t) : s.busy = false ∧ t = effect s := by
  rw [windowAccess] at h
  split at h
  · cases h
  · cases hb : s.busy <;> simp only [hb, if_true, if_false, Bool.false_eq_true] at h <;> cases h
    exact ⟨rfl, rfl⟩

/-- Only offset 0 names CMD (R26). -/
theorem hostReg_eq_cmd {offset : Nat} (h : hostReg offset = some .cmd) : offset = 0 := by
  unfold hostReg at h
  split at h <;> cases h
  rfl

theorem region_eq_register {addr : BitVec 18} {offset : Nat} (h : region addr = .register offset) :
    offset = addr.toNat := by
  simp only [region] at h
  split_ifs at h
  cases h
  rfl

/-- A host write changes RESULT only as the 32-bit write to CMD that it then is (R26, R34, R80). -/
theorem hostWrite_cmd_or_keeps_result {addr : BitVec 18} {width : Nat} {d : Word} {s t : State}
    (h : hostWrite addr width d s = .next t) :
    (addr = 0x000#18 ∧ width = 32 ∧ writeCmd d s = .next t) ∨ t.result = s.result := by
  cases hreg : region addr <;> simp only [hostWrite, hreg] at h
  case register offset =>
    split at h
    · next hok =>
      split at h
      · next hcmd =>
        have haddr : addr.toNat = 0 := by rw [← region_eq_register hreg, hostReg_eq_cmd hcmd]
        simp only [registerAccessOk, Bool.and_eq_true, beq_iff_eq] at hok
        exact .inl ⟨BitVec.eq_of_toNat_eq haddr, hok.1, h⟩
      · next r _ _ =>
        cases h
        obtain ⟨_, _, _, _, _, _, hw⟩ := writeReg_eq d s r
        exact .inr (by rw [hw])
      · cases h; exact .inr rfl
    · cases h
  case text a =>
    obtain ⟨_, rfl⟩ := windowAccess_eq_next h
    obtain ⟨m, hw⟩ := writeTextByte_eq a (d.setWidth 8) s
    exact .inr (by rw [hw])
  case buf a =>
    obtain ⟨_, rfl⟩ := windowAccess_eq_next h
    obtain ⟨m, hw⟩ := writeBufByte_eq a (d.setWidth 8) s
    exact .inr (by rw [hw])
  case reserved => cases h; exact .inr rfl

theorem hostAccess_cmd_or_keeps_result {op : BusOp} {s t : State} (h : hostAccess op s = .next t) :
    (∃ w, op = .write 0x000#18 32 w ∧ writeCmd w s = .next t) ∨ t.result = s.result := by
  cases op with
  | read addr width =>
    obtain ⟨v, n, rfl⟩ := hostRead_cases h
    exact .inr rfl
  | write addr width d =>
    rcases hostWrite_cmd_or_keeps_result h with ⟨rfl, rfl, hw⟩ | hr
    · exact .inl ⟨d, rfl, hw⟩
    · exact .inr hr

theorem acceptEvent_result (s : State) : (acceptEvent s).result = s.result := by
  rcases acceptEvent_cases s with ⟨_, h⟩ | ⟨_, _, _, h⟩ | ⟨_, _, _, _, _, h⟩ <;> rw [h] <;> rfl

theorem wellFormed_of_step {s t : State} (h : step s = .next t) : s.cfg.wellFormed = true := by
  by_contra hc
  rw [step_of_illegal (Bool.eq_false_iff.mpr hc)] at h
  split at h <;> cases h

/-- Settles O18, by the agent that steps: the core completes, the host's CMD write is rejected, or it is a reset. -/
theorem resultChangesOnlyAtCompletionOrReset : Obligations.ResultChangesOnlyAtCompletionOrReset := by
  intro s t h hne
  have hc := wellFormed_of_step h
  rcases step_cases hc with ⟨hs, hstep⟩ | ⟨a, rest, hs, hstep⟩ <;> rw [hstep] at h
  · exact .inl ⟨.inl hs, (stepFrame_coreStep h).completes_of_result_ne hne⟩
  · rw [hs]
    cases a with
    | core => exact .inl ⟨.inr rfl, (stepFrame_coreStep h).completes_of_result_ne hne⟩
    | accept => cases h; exact absurd (acceptEvent_result _) hne
    | reset => exact .inr (.inr rfl)
    | host op =>
      rcases hostAccess_cmd_or_keeps_result h with ⟨w, rfl, hw⟩ | hr
      · rcases writeCmd_keeps_or_rejects (s := { s with schedule := rest }) hc hw with hr | ⟨hb, v, u, hv, rfl⟩
        · exact absurd hr hne
        · exact .inr (.inl ⟨⟨w, rfl⟩, hb, rfl, rfl, hv⟩)
      · exact absurd hr hne

end Sys2Proof.Machine
end

section
/-! SUPPORT. The event port between the engine and the collaborator: what holds while an event is on it, and what its
acceptance does (R43, R212, R213). -/

namespace Sys2Proof.Machine

/-! ### While an event is presented -/

/-- A CMD write with BUSY = 1 is ignored, whatever its word (R242). -/
theorem writeCmd_of_busy (w : Word) {s : State} (hb : s.busy = true) : writeCmd w s = .next s := by
  rcases writeCmd_cases w s with ⟨i, _, h⟩ | ⟨_, h⟩ <;> rw [h]
  · rw [exec_eq_issue, issue_of_busy _ _ hb]
  · exact illegalCommand_of_busy hb

/-- With BUSY = 1 the host reaches its registers and DONE: no memory, engine state or port (R73, R242). -/
theorem hostAccess_of_busy {op : BusOp} {s t : State} (hb : s.busy = true) (h : hostAccess op s = .next t) :
    t = { s with done := t.done, irqEn := t.irqEn, textLen := t.textLen, capacity := t.capacity,
                 length := t.length, flags := t.flags, reads := t.reads, freeIdx := t.freeIdx } := by
  cases op with
  | read addr width =>
    obtain ⟨v, n, rfl⟩ := hostRead_cases h
    rfl
  | write addr width d =>
    rcases hostWrite_cases h with hw | ⟨r, rfl⟩ | ⟨hi, _⟩ | ⟨hi, _⟩ | rfl
    · rw [writeCmd_of_busy d hb] at hw; cases hw; rfl
    · obtain ⟨_, _, _, _, _, _, hw⟩ := writeReg_eq d s r
      rw [hw]
    · rw [hb] at hi; cases hi
    · rw [hb] at hi; cases hi
    · rfl

theorem coreStep_of_dEmit {s : State} (h : s.eng = .dEmit) : coreStep s = .next s := by
  simp [coreStep, h]

/-- Settles O42: an event on the port means D_EMIT, where the core waits and the host reaches only its registers. -/
theorem presentedEventHoldsUntilAccepted : Obligations.PresentedEventHoldsUntilAccepted := by
  intro s t a hinv hv haccept hreset h
  have he := hinv.dEmit_of_evValid hv
  have hb : s.busy = true := (busy_eq_true_iff s).mpr (by simp [he])
  cases a with
  | accept => exact absurd rfl haccept
  | reset => exact absurd rfl hreset
  | core =>
    have h : coreStep s = .next t := h
    rw [coreStep_of_dEmit he] at h
    cases h
    exact ⟨hv, rfl, rfl, rfl, hb, fun _ => rfl⟩
  | host op =>
    rw [hostAccess_of_busy hb h]
    exact ⟨hv, rfl, rfl, rfl, hb, fun hcore => by cases hcore⟩

/-! ### Its acceptance -/

/-- No kind of event has the code 00 (R43). -/
theorem EventKind.code_ne_zero (k : EventKind) : k.code ≠ 0b00#2 := by
  cases k <;> decide

/-- The three codes differ, so a kind is read back from its code (R43, R92). -/
theorem EventKind.eq_of_code (k : EventKind) :
    k = if k.code = 0b01#2 then .dit else if k.code = 0b10#2 then .dah else .silence := by
  cases k <;> rfl

/-- An event on the port is the head of the queue (R43, R209). -/
theorem Inv.head_of_evValid {s : State} (h : Inv s) (hv : s.evValid = true) :
    ∃ e es, s.q = e :: es ∧ s.evKind = e.kind.code ∧ s.evFlags = e.flags := by
  have he := h.dEmit_of_evValid hv
  obtain ⟨_, _, hport⟩ := h.port
  cases hq : s.q with
  | nil => rw [hq] at hport; exact absurd he hport
  | cons e es =>
    rw [hq] at hport
    obtain ⟨_, hkind, hflags⟩ := hport
    exact ⟨e, es, rfl, hkind, hflags⟩

theorem acceptEvent_of_silent {s : State} (hv : s.evValid = false) : acceptEvent s = s := by
  simp [acceptEvent, hv]

/-- The last event queued is accepted: the walk goes on or is over (R209). -/
theorem acceptEvent_of_last {s : State} {e : Event} (hv : s.evValid = true) (hq : s.q = [e]) :
    acceptEvent s =
      withdraw { s with delivered := s.delivered ++ [e], q := [], eng := if s.allVisited then .dFin else .dWalk } := by
  simp [acceptEvent, hv, hq]

/-- An event with others behind it is accepted: the next one is presented (R209). -/
theorem acceptEvent_of_more {s : State} {e e' : Event} {es : List Event} (hv : s.evValid = true)
    (hq : s.q = e :: e' :: es) :
    acceptEvent s = present e' { s with delivered := s.delivered ++ [e], q := e' :: es } := by
  simp [acceptEvent, hv, hq]

/-- Where the walk stands when the queue has run empty (R193, R209). -/
theorem walkOrFin_eq (s : State) :
    (if s.allVisited then Eng.dFin else Eng.dWalk) = if s.bi < s.dlen.toNat then Eng.dWalk else Eng.dFin := by
  rcases Nat.lt_or_ge s.bi s.dlen.toNat with h | h
  · simp [State.allVisited, h]
  · simp [State.allVisited, h, Nat.not_lt.mpr h]

/-- Settles O43: the port shows the head of the queue, so that is delivered; then by what is queued behind. -/
theorem acceptanceDeliversThePortsEvent : Obligations.AcceptanceDeliversThePortsEvent := by
  intro s hinv
  refine ⟨fun hv => congrArg Host.Outcome.next (acceptEvent_of_silent hv), fun hv => ?_⟩
  obtain ⟨e, es, hq, hkind, hflags⟩ := hinv.head_of_evValid hv
  refine ⟨hkind ▸ e.kind.code_ne_zero, acceptEvent s, e, rfl, ?_⟩
  rw [hkind, ← e.kind.eq_of_code]
  cases es with
  | nil =>
    rw [acceptEvent_of_last hv hq]
    refine ⟨hq, hflags.symm, rfl, rfl, fun e' rest hr => ?_, fun _ => ⟨walkOrFin_eq s, rfl, rfl, rfl, rfl⟩⟩
    cases hr
  | cons e' es =>
    rw [acceptEvent_of_more hv hq]
    refine ⟨hq, hflags.symm, rfl, rfl, fun e'' rest hr => ?_, fun hr => ?_⟩
    · cases hr
      exact ⟨hinv.dEmit_of_evValid hv, rfl, rfl, rfl, rfl⟩
    · cases hr

end Sys2Proof.Machine
end

section
/-! SUPPORT. The host's view: STATUS and IRQ, the register transactions of R93, reads of unwritten bytes. -/

namespace Sys2Proof.Machine

/-! ### STATUS and IRQ -/

/-- The four bits of STATUS (R28). -/
theorem getLsbD_statusWord (s : State) :
    (statusWord s).getLsbD 0 = s.busy ∧ (statusWord s).getLsbD 1 = s.done ∧ (statusWord s).getLsbD 2 = s.err ∧
    (statusWord s).getLsbD 3 = s.trunc := by
  rw [statusWord]
  generalize s.busy = busy, s.done = done, s.err = err, s.trunc = trunc
  revert busy done err trunc
  decide

theorem getLsbD_statusWord_of_ge (s : State) {n : Nat} (h : 4 ≤ n) : (statusWord s).getLsbD n = false := by
  rw [statusWord, BitVec.getLsbD_setWidth, BitVec.getLsbD_of_ge _ n h, Bool.and_false]

theorem busy_eq_decide (s : State) : s.busy = decide (s.eng ≠ .idle) :=
  Bool.eq_iff_iff.mpr ((busy_eq_true_iff s).trans decide_eq_true_iff.symm)

/-- Settles O17: four bits below, zero extension above. -/
theorem statusBitsAsRead : Obligations.StatusBitsAsRead := by
  intro s
  obtain ⟨hbusy, hdone, herr, htrunc⟩ := getLsbD_statusWord s
  exact ⟨hbusy.trans (busy_eq_decide s), hdone, herr, htrunc, fun _ => getLsbD_statusWord_of_ge s⟩

/-! ### Register transactions -/

/-- Each register stands at its offset of the register window, where a 32-bit access is legal (R26, R64). -/
theorem region_offset (r : HostReg) : region r.offset = .register r.offset.toNat := by
  cases r <;> decide

theorem registerAccessOk_offset (r : HostReg) : registerAccessOk r.offset.toNat 32 = true := by
  cases r <;> decide

theorem hostReg_offset (r : HostReg) : hostReg r.offset.toNat = some r := by
  cases r <;> decide

/-- `RD` of a register returns its value and has no side effect (R27, R93). -/
theorem act_rd (r : HostReg) (s : State) : act (.host (rd r)) s = .next (answerRead (readReg s r) s) := by
  simp [act, rd, hostAccess, hostRead, region_offset, registerAccessOk_offset, hostReg_offset]

/-- `WR` of a register other than CMD is its write (R28 to R34, R93). -/
theorem act_wr {r : HostReg} (d : Word) (s : State) (h : r ≠ .cmd) :
    act (.host (wr r d)) s = .next (writeReg d s r) := by
  simp only [act, wr, hostAccess, hostWrite, region_offset, registerAccessOk_offset, hostReg_offset, if_true]

/-- Settles O51: each write is `writeReg` of its register. -/
theorem registerWriteChangesItsFieldOnly : Obligations.RegisterWriteChangesItsFieldOnly :=
  fun s d => ⟨act_wr (r := .status) d s (by decide), act_wr (r := .ctrl) d s (by decide),
    act_wr (r := .textLen) d s (by decide), act_wr (r := .capacity) d s (by decide),
    act_wr (r := .length) d s (by decide), act_wr (r := .flags) d s (by decide),
    act_wr (r := .result) d s (by decide)⟩

/-- Settles O16: IRQ is computed from two bits the host reads, and `ack` and the CTRL writes reach those bits. -/
theorem irqIsDoneAndEnable : Obligations.IrqIsDoneAndEnable := by
  refine ⟨rfl, fun s => ?_, fun s => ⟨_, act_wr (r := .status) _ s (by decide), ?_, rfl⟩,
    fun s => ⟨_, act_wr (r := .ctrl) _ s (by decide), ?_, rfl⟩,
    fun s hd => ⟨_, act_wr (r := .ctrl) _ s (by decide), ?_⟩⟩
  · obtain ⟨_, hdone, _⟩ := getLsbD_statusWord s
    have hen : (readReg s .ctrl).getLsbD 0 = s.irqEn := by simp [readReg]
    rw [State.irq, hen, ← hdone, readReg]
  · simp [State.irq, writeReg]
  · simp [State.irq, writeReg]
  · simp [State.irq, writeReg, hd]

/-- Bit 0 zero-extended is the word with all other bits cleared (R29). -/
theorem setWidth_ofBool_getLsbD_zero (d : Word) : (BitVec.ofBool (d.getLsbD 0)).setWidth 32 = d &&& 1#32 := by
  ext n hn
  by_cases h : n = 0 <;> simp [h]

/-- The low byte zero-extended is the word with all other bits cleared (R33). -/
theorem setWidth_setWidth_byte (d : Word) : (d.setWidth 8).setWidth 32 = d &&& 0xFF#32 := by
  apply BitVec.eq_of_toNat_eq
  have hlt : d.toNat % 2 ^ 8 < 2 ^ 32 := by omega
  rw [BitVec.toNat_setWidth, BitVec.toNat_setWidth, Nat.mod_eq_of_lt hlt, BitVec.toNat_and]
  exact (Nat.and_two_pow_sub_one_eq_mod d.toNat 8).symm

/-- A field of ADDR_W bits reads back whole: ADDR_W is 16 at most (R9, R30). -/
theorem toNat_addrField {c : Config} (hc : c.wellFormed = true) (d : Word) :
    ((addrField c d).setWidth 32).toNat = d.toNat % 2 ^ c.addrW := by
  obtain ⟨_, haddr, _⟩ := sizes_of_wellFormed hc
  have hlt : d.toNat % 2 ^ c.addrW < 2 ^ 16 :=
    Nat.lt_of_lt_of_le (Nat.mod_lt _ (Nat.two_pow_pos _)) (Nat.pow_le_pow_right (by decide) haddr)
  rw [addrField, BitVec.toNat_setWidth, BitVec.toNat_ofNat]
  omega

/-- The value read back after a legal register write is that of the written state. -/
theorem eq_writeReg_of_act_wr {r : HostReg} {d : Word} {s t : State} (h : r ≠ .cmd)
    (ht : act (.host (wr r d)) s = .next t) : t = writeReg d s r := by
  rw [act_wr d s h] at ht
  cases ht
  rfl

/-- Settles O52: a read only answers, and each register's write is read back from the field it set. -/
theorem registerReadsBackWhatWasWritten : Obligations.RegisterReadsBackWhatWasWritten := by
  refine ⟨fun s r => act_rd r s, fun s => ⟨rfl, rfl⟩, fun s t d hc => ⟨?_, ?_, ?_, ?_, ?_⟩⟩ <;> intro ht <;>
    rw [eq_writeReg_of_act_wr (by decide) ht]
  · exact setWidth_ofBool_getLsbD_zero d
  · exact setWidth_setWidth_byte d
  · exact toNat_addrField hc d
  · exact toNat_addrField hc d
  · exact toNat_addrField hc d

/-! ### Reads of bytes nothing has written -/

theorem windowAccess_of_idle {effect : State → State} {s : State} (hb : s.busy = false) :
    windowAccess 8 effect s = .next (effect s) := by
  simp [windowAccess, hb]

/-- A window read of a byte within the memory that nothing has written draws a free value (R37). -/
theorem windowRead_of_none {m : Memory} {size a : Nat} (s : State) (ha : a < size) (hr : m.read a = none) :
    windowRead m size a s =
      answerRead ((Config.freeByte s.freeIdx).setWidth 32) { s with freeIdx := s.freeIdx + 1 } := by
  simp [windowRead, Nat.not_le.mpr ha, hr]

/-- `RB` of a TEXT byte is a window read, the block being idle (R60, R73). -/
theorem act_rbText {a : Nat} {s : State} (ha : a < 0x10000) (hb : s.busy = false) :
    act (.host (rbText a)) s = .next (windowRead s.text s.cfg.textSize a s) := by
  simp only [act, rbText, hostAccess, hostRead, region_wbText ha, windowAccess_of_idle hb]

/-- `RB` of a BUF byte is a window read, the block being idle (R60, R73). -/
theorem act_rbBuf {a : Nat} {s : State} (ha : a < 0x10000) (hb : s.busy = false) :
    act (.host (rbBuf a)) s = .next (windowRead s.buf s.cfg.bufSize a s) := by
  simp only [act, rbBuf, hostAccess, hostRead, region_wbBuf ha, windowAccess_of_idle hb]

/-- Settles O54: both windows hold their memory, and the read of an unwritten byte there draws a free value. -/
theorem hostReadOfUnwrittenByteIsFree : Obligations.HostReadOfUnwrittenByteIsFree := by
  intro s a hc hb
  obtain ⟨htext, hbuf⟩ := sizes_le_window hc
  refine ⟨fun ha hr => ?_, fun ha hr => ?_⟩
  · rw [act_rbText (Nat.lt_of_lt_of_le ha htext) hb, windowRead_of_none s ha hr]
    rfl
  · rw [act_rbBuf (Nat.lt_of_lt_of_le ha hbuf) hb, windowRead_of_none s ha hr]
    rfl

end Sys2Proof.Machine
end

section
/-! SUPPORT. The invariant at power-on. -/

namespace Sys2Proof.Machine

/-- Power-on under a legal configuration is within the invariant: idle, silent, with both memories empty (R271). -/
theorem inv_powerOn {c : Config} (hc : c.wellFormed = true) : Inv (State.powerOn c) := by
  have hz : fitsAddr c 0 := Nat.two_pow_pos _
  have hempty (size : Nat) : MemoryFits [] size := ⟨Memory.wf_nil, fun _ hm => by cases hm⟩
  exact inv_of_idle ⟨hc, hempty _, hempty _, ⟨hz, hz, hz, hz, hz, hz⟩, BitVec.zero_and⟩ rfl
    (show false = (0#32).msb by decide) (fun _ => rfl) rfl rfl

/-- Settles O58: power-on with the default parameters, which are legal. -/
theorem invariantHoldsAfterReset : Obligations.InvariantHoldsAfterReset :=
  inv_powerOn defaultConfig_wellFormed

end Sys2Proof.Machine
end

section
/-! SUPPORT. The host's transactions region by region of the address map (R60): the faults of R64 and R73, reserved
addresses (R61), and the bytes of the two windows (R62, R63). -/

namespace Sys2Proof.Machine

/-! ### One transaction, by the region its address names -/

theorem registerAccessOk_eq_true_iff {offset width : Nat} :
    registerAccessOk offset width = true ↔ width = 32 ∧ offset % 4 = 0 := by
  simp [registerAccessOk]

section
variable {addr : BitVec 18} {offset a : Nat}

/-- An ill-formed access to the register window faults whatever the offset names (R64). -/
theorem act_register_of_not_ok (s : State) {width : Nat} (d : Word) (hr : region addr = .register offset)
    (hok : registerAccessOk offset width = false) :
    act (.host (.read addr width)) s = .fault .badAccess ∧ act (.host (.write addr width d)) s = .fault .badAccess := by
  simp [act, hostAccess, hostRead, hostWrite, hr, hok]

/-- A well-formed access to an offset that names no register reads 0 and writes nothing (R26, R61). -/
theorem act_register_of_none (s : State) {width : Nat} (d : Word) (hr : region addr = .register offset)
    (hok : registerAccessOk offset width = true) (hn : hostReg offset = none) :
    act (.host (.read addr width)) s = .next (answerRead 0#32 s) ∧ act (.host (.write addr width d)) s = .next s := by
  simp [act, hostAccess, hostRead, hostWrite, hr, hok, hn]

theorem act_reserved (s : State) (width : Nat) (d : Word) (hr : region addr = .reserved) :
    act (.host (.read addr width)) s = .next (answerRead 0#32 s) ∧ act (.host (.write addr width d)) s = .next s := by
  simp [act, hostAccess, hostRead, hostWrite, hr]

theorem act_text (s : State) (width : Nat) (d : Word) (hr : region addr = .text a) :
    act (.host (.read addr width)) s = windowAccess width (fun t => windowRead t.text t.cfg.textSize a t) s ∧
    act (.host (.write addr width d)) s = windowAccess width (writeTextByte a (d.setWidth 8)) s := by
  simp [act, hostAccess, hostRead, hostWrite, hr]

theorem act_buf (s : State) (width : Nat) (d : Word) (hr : region addr = .buf a) :
    act (.host (.read addr width)) s = windowAccess width (fun t => windowRead t.buf t.cfg.bufSize a t) s ∧
    act (.host (.write addr width d)) s = windowAccess width (writeBufByte a (d.setWidth 8)) s := by
  simp [act, hostAccess, hostRead, hostWrite, hr]

/-- In either window both transactions are a window access: only their effect differs (R60). -/
theorem act_window (s : State) (width : Nat) (d : Word) (hlo : 0x10000 ≤ addr.toNat) (hhi : addr.toNat < 0x30000) :
    (∃ effect, act (.host (.read addr width)) s = windowAccess width effect s) ∧
    (∃ effect, act (.host (.write addr width d)) s = windowAccess width effect s) := by
  by_cases hbuf : 0x20000 ≤ addr.toNat
  · obtain ⟨hread, hwrite⟩ := act_buf s width d (region_of_buf hbuf hhi)
    exact ⟨⟨_, hread⟩, ⟨_, hwrite⟩⟩
  · obtain ⟨hread, hwrite⟩ := act_text s width d (region_of_text hlo (Nat.lt_of_not_le hbuf))
    exact ⟨⟨_, hread⟩, ⟨_, hwrite⟩⟩

end

/-! ### Faults -/

theorem windowAccess_of_width_ne {width : Nat} (effect : State → State) (s : State) (h : width ≠ 8) :
    windowAccess width effect s = .fault .badAccess := by
  simp [windowAccess, h]

theorem windowAccess_of_busy (effect : State → State) {s : State} (hb : s.busy = true) :
    windowAccess 8 effect s = .fault .windowWhileBusy := by
  simp [windowAccess, hb]

/-- Settles O48: the width is tested before the offset is looked up and before BUSY is. -/
theorem wrongWidthOrAlignmentFaults : Obligations.WrongWidthOrAlignmentFaults := by
  rintro s addr width d (⟨hreg, hbad⟩ | ⟨hlo, hhi, hwidth⟩)
  · have hok : registerAccessOk addr.toNat width = false := by
      rw [Bool.eq_false_iff, Ne, registerAccessOk_eq_true_iff]
      omega
    exact act_register_of_not_ok s d (region_of_register hreg) hok
  · obtain ⟨⟨_, hread⟩, ⟨_, hwrite⟩⟩ := act_window s width d hlo hhi
    exact ⟨hread.trans (windowAccess_of_width_ne _ s hwidth), hwrite.trans (windowAccess_of_width_ne _ s hwidth)⟩

/-- Settles O49: BUSY is tested before the effect, which is where the memory's size would matter. -/
theorem windowAccessWhileBusyFaults : Obligations.WindowAccessWhileBusyFaults := by
  intro s addr d hb hlo hhi
  obtain ⟨⟨_, hread⟩, ⟨_, hwrite⟩⟩ := act_window s 8 d hlo hhi
  exact ⟨hread.trans (windowAccess_of_busy _ hb), hwrite.trans (windowAccess_of_busy _ hb)⟩

/-! ### Reserved addresses -/

theorem windowRead_of_ge (m : Memory) {size a : Nat} (s : State) (h : size ≤ a) :
    windowRead m size a s = answerRead 0#32 s :=
  if_pos h

theorem writeTextByte_of_ge {a : Nat} (v : Byte) {s : State} (h : s.cfg.textSize ≤ a) : writeTextByte a v s = s :=
  if_neg (Nat.not_lt.mpr h)

theorem writeBufByte_of_ge {a : Nat} (v : Byte) {s : State} (h : s.cfg.bufSize ≤ a) : writeBufByte a v s = s :=
  if_neg (Nat.not_lt.mpr h)

/-- Settles O50: one case per kind of reserved address. -/
theorem reservedAddressIsHarmless : Obligations.ReservedAddressIsHarmless := by
  rintro s addr width d (hgap | hhigh | ⟨hlo, hhi, halign, rfl⟩ | ⟨hlo, hhi, rfl, hb⟩ | ⟨hlo, hhi, rfl, hb⟩)
  · exact act_reserved s width d (region_of_reserved (.inl hgap))
  · exact act_reserved s width d (region_of_reserved (.inr hhigh))
  · exact act_register_of_none s d (region_of_register hhi) (registerAccessOk_eq_true_iff.mpr ⟨rfl, halign⟩)
      (hostReg_of_reserved hlo)
  · have hsize : s.cfg.textSize ≤ addr.toNat - 0x10000 := by omega
    obtain ⟨hread, hwrite⟩ := act_text s 8 d (region_of_text (by omega) hhi)
    rw [hread, hwrite, windowAccess_of_idle hb, windowAccess_of_idle hb, windowRead_of_ge _ s hsize,
      writeTextByte_of_ge _ hsize]
    exact ⟨rfl, rfl⟩
  · have hsize : s.cfg.bufSize ≤ addr.toNat - 0x20000 := by omega
    obtain ⟨hread, hwrite⟩ := act_buf s 8 d (region_of_buf (by omega) hhi)
    rw [hread, hwrite, windowAccess_of_idle hb, windowAccess_of_idle hb, windowRead_of_ge _ s hsize,
      writeBufByte_of_ge _ hsize]
    exact ⟨rfl, rfl⟩

/-! ### The bytes of the windows -/

theorem windowRead_of_some {m : Memory} {size a : Nat} {v : Byte} (s : State) (ha : a < size)
    (hr : m.read a = some v) : windowRead m size a s = answerRead (v.setWidth 32) s := by
  simp [windowRead, Nat.not_le.mpr ha, hr]

theorem writeTextByte_of_lt {a : Nat} (v : Byte) {s : State} (h : a < s.cfg.textSize) :
    writeTextByte a v s = { s with text := s.text.write a v } :=
  if_pos h

theorem writeBufByte_of_lt {a : Nat} (v : Byte) {s : State} (h : a < s.cfg.bufSize) :
    writeBufByte a v s = { s with buf := s.buf.write a v } :=
  if_pos h

/-- A byte put on the 32-bit data lane is the byte the window takes from it (R62). -/
theorem setWidth_byte_setWidth_word (v : Byte) : (v.setWidth 32).setWidth 8 = v := by
  rw [BitVec.setWidth_setWidth_of_le _ (by decide), BitVec.setWidth_eq]

section
variable {s : State} {a : Nat} {v : Byte} (hc : s.cfg.wellFormed = true) (hb : s.busy = false)
include hc hb

/-- `WB` of a TEXT byte within the memory writes it (R60, R63). -/
theorem act_wbText (v : Byte) (ha : a < s.cfg.textSize) :
    act (.host (wbText a v)) s = .next { s with text := s.text.write a v } := by
  obtain ⟨htext, _⟩ := sizes_le_window hc
  rw [wbText, (act_text s 8 _ (region_wbText (Nat.lt_of_lt_of_le ha htext))).2, windowAccess_of_idle hb,
    setWidth_byte_setWidth_word, writeTextByte_of_lt v ha]

/-- `WB` of a BUF byte within the memory writes it (R60, R63). -/
theorem act_wbBuf (v : Byte) (ha : a < s.cfg.bufSize) :
    act (.host (wbBuf a v)) s = .next { s with buf := s.buf.write a v } := by
  obtain ⟨_, hbuf⟩ := sizes_le_window hc
  rw [wbBuf, (act_buf s 8 _ (region_wbBuf (Nat.lt_of_lt_of_le ha hbuf))).2, windowAccess_of_idle hb,
    setWidth_byte_setWidth_word, writeBufByte_of_lt v ha]

/-- A host read of a written TEXT byte only answers (R62, R68). -/
theorem act_rbText_of_some (ha : a < s.cfg.textSize) (hr : s.text.read a = some v) :
    act (.host (rbText a)) s = .next (answerRead (v.setWidth 32) s) := by
  obtain ⟨htext, _⟩ := sizes_le_window hc
  rw [act_rbText (Nat.lt_of_lt_of_le ha htext) hb, windowRead_of_some s ha hr]

/-- `RB` of a written BUF byte only answers (R62, R68). -/
theorem act_rbBuf_of_some (ha : a < s.cfg.bufSize) (hr : s.buf.read a = some v) :
    act (.host (rbBuf a)) s = .next (answerRead (v.setWidth 32) s) := by
  obtain ⟨_, hbuf⟩ := sizes_le_window hc
  rw [act_rbBuf (Nat.lt_of_lt_of_le ha hbuf) hb, windowRead_of_some s ha hr]

end

/-- Settles O53: a host write is one memory write, and the read after it is that of any written byte in the new state. -/
theorem windowReadsWhatWasWritten : Obligations.WindowReadsWhatWasWritten := by
  intro s a v hc hb
  refine ⟨fun ha => ⟨⟨s.text.write a v, act_wbText hc hb v ha, Memory.read_write_same _ a v,
    fun _ hne => Memory.read_write_other _ v hne, ?_⟩, act_rbText_of_some hc hb ha⟩,
    fun ha => ⟨⟨s.buf.write a v, act_wbBuf hc hb v ha, Memory.read_write_same _ a v,
    fun _ hne => Memory.read_write_other _ v hne, ?_⟩, act_rbBuf_of_some hc hb ha⟩⟩
  · exact act_rbText_of_some (s := { s with text := s.text.write a v }) hc hb ha (Memory.read_write_same _ a v)
  · exact act_rbBuf_of_some (s := { s with buf := s.buf.write a v }) hc hb ha (Memory.read_write_same _ a v)

end Sys2Proof.Machine
end

section
/-! SUPPORT. The decoder against the encoder (R80, R81, R84), the command a CMD write issues (R241), and the groups of a
Compact run slot by slot (R89, R153). -/

namespace Sys2Proof

/-! ### The opcode map -/

@[simp] theorem instrOfOp_op (i : Instr) : instrOfOp i.op = i := by
  cases i <;> rfl

@[simp] theorem op_instrOfOp (op : BitVec 2) : (instrOfOp op).op = op := by
  revert op; decide

/-- The word of every command is well-formed: RSVD is zero and OP is the command's (R80, R81). -/
theorem encodedWord_statement (i : Instr) : Laws.EncodedWord.Statement i :=
  match i with
  | .encodeAligned => Laws.EncodedWord.encodeAligned
  | .encodeCompact => Laws.EncodedWord.encodeCompact
  | .dispatch => Laws.EncodedWord.dispatch
  | .decode => Laws.EncodedWord.decode

/-- A word is its two fields, RSVD above OP (R80). -/
theorem rsvdField_append_opField (w : Word) : rsvdField w ++ opField w = w :=
  BitVec.extractLsb'_append_extractLsb'_eq_extractLsb' (by rfl) |>.trans BitVec.extractLsb'_eq_self

theorem rsvdField_eq_zero_iff (w : Word) : rsvdField w = 0#30 ↔ w.toNat / 4 = 0 := by
  have := w.isLt
  rw [← BitVec.toNat_inj, rsvdField, BitVec.extractLsb'_toNat, Nat.shiftRight_eq_div_pow, BitVec.toNat_ofNat]
  omega

theorem decodeCmd_encode (i : Instr) : decodeCmd (encode i) = .ok i := by
  obtain ⟨_, hrsvd, hop, _⟩ := encodedWord_statement i
  simp [decodeCmd, hrsvd, hop]

theorem encode_instrOfOp_opField {w : Word} (h : rsvdField w = 0#30) : encode (instrOfOp (opField w)) = w := by
  rw [encode, op_instrOfOp, ← h, rsvdField_append_opField]

/-- A word is a command exactly when it is that command's word (R81). -/
theorem decodeCmd_eq_ok_iff (w : Word) (i : Instr) : decodeCmd w = .ok i ↔ w = encode i := by
  refine ⟨fun h => ?_, fun h => h ▸ decodeCmd_encode i⟩
  by_cases hrsvd : rsvdField w = 0#30
  · rw [decodeCmd, if_pos hrsvd] at h
    cases h
    exact (encode_instrOfOp_opField hrsvd).symm
  · rw [decodeCmd, if_neg hrsvd] at h
    cases h

/-- A word is illegal exactly when a bit of w[31:2] is set (R84). -/
theorem decodeCmd_eq_reservedBits_iff (w : Word) : decodeCmd w = .error .reservedBits ↔ w.toNat / 4 ≠ 0 := by
  rw [Ne, ← rsvdField_eq_zero_iff]
  by_cases hrsvd : rsvdField w = 0#30 <;> simp [decodeCmd, hrsvd]

/-- Settles O2: a word is its two fields, so one without RSVD bits is the encoding of the command its OP selects. -/
theorem wordDecodesExactlyToWhatItEncodes : Obligations.WordDecodesExactlyToWhatItEncodes :=
  ⟨by decide, by decide, by decide, by decide, decodeCmd_eq_ok_iff, decodeCmd_eq_reservedBits_iff⟩

/-- Settles O1: the first four words are encodings, the other four have a bit of RSVD set. -/
theorem decoderReadsTheOpcodeMap : Obligations.DecoderReadsTheOpcodeMap :=
  ⟨decodeCmd_encode .encodeAligned, decodeCmd_encode .encodeCompact, decodeCmd_encode .dispatch,
    decodeCmd_encode .decode, (decodeCmd_eq_reservedBits_iff _).mpr (by decide),
    (decodeCmd_eq_reservedBits_iff _).mpr (by decide), (decodeCmd_eq_reservedBits_iff _).mpr (by decide),
    (decodeCmd_eq_reservedBits_iff _).mpr (by decide)⟩

namespace Machine

/-! ### The command a CMD write issues -/

/-- `withFetchWord` puts the CMD write of the word in front of the schedule (R80). -/
theorem schedule_withFetchWord (s : State) (w : Word) :
    (s.withFetchWord 32 w.toNat).schedule = .host (.write 0x000#18 32 w) :: s.schedule := by
  rw [State.withFetchWord, Nat.mod_eq_of_lt w.isLt, BitVec.ofNat_toNat, BitVec.setWidth_eq]

/-- A scheduled CMD write of a command word runs the command (R80, R241). -/
theorem step_of_scheduled_writeCmd {s : State} {w : Word} {i : Instr} {rest : List Action}
    (hc : s.cfg.wellFormed = true) (hw : decodeCmd w = .ok i)
    (hs : s.schedule = .host (.write 0x000#18 32 w) :: rest) : step s = exec i { s with schedule := rest } :=
  (step_of_scheduled hc hs).trans (act_writeCmd _ hw)

/-- Settles O3: in both states the scheduled action is the CMD write. -/
theorem stepRunsTheDecodedCommand : Obligations.StepRunsTheDecodedCommand := by
  intro s w i rest hc hw
  constructor
  · exact step_of_scheduled_writeCmd (s := { s with schedule := _ }) hc hw rfl
  · exact step_of_scheduled_writeCmd (s := s.withFetchWord 32 w.toNat) hc hw (schedule_withFetchWord s w)

/-! ### A run, slot by slot -/

/-- A group placed at slot `j` shows there and leaves the other slots NUL (R22, R67). -/
theorem slotOf_placeGroup : ∀ (sym : Sym) (i : Nat), i < 4 → ∀ j, j < 4 →
    slotOf (placeGroup sym j) i = if i = j then sym else 0#2 := by
  decide

theorem slotOf_or (v v' : Byte) (i : Nat) : slotOf (v ||| v') i = slotOf v i ||| slotOf v' i :=
  BitVec.extractLsb'_or

/-- One deposit ORs its group into the slot of its position and into no other (R67). -/
theorem slotOf_or_placeGroup (v : Byte) (sym : Sym) {i j : Nat} (hi : i < 4) (hj : j < 4) :
    slotOf (v ||| placeGroup sym j) i = if i = j then slotOf v i ||| sym else slotOf v i := by
  rw [slotOf_or, slotOf_placeGroup sym i hi j hj]
  split
  · rfl
  · exact BitVec.or_zero

/-- The slot of group position `g` after one deposit at position `k` (R67). -/
theorem slot_write_placeGroup {m : Memory} (k : Nat) (sym : Sym) {g : Nat} {v : Byte} (hv : m.read (g / 4) = some v) :
    ∃ v', (m.write (k / 4) ((m.read (k / 4)).getD 0#8 ||| placeGroup sym (k % 4))).read (g / 4) = some v' ∧
      slotOf v' (g % 4) = if g = k then slotOf v (g % 4) ||| sym else slotOf v (g % 4) := by
  by_cases hbyte : g / 4 = k / 4
  · refine ⟨v ||| placeGroup sym (k % 4), by rw [← hbyte, Memory.read_write_same, hv]; rfl, ?_⟩
    rw [slotOf_or_placeGroup v sym (Nat.mod_lt g (by decide)) (Nat.mod_lt k (by decide))]
    exact if_congr (by omega) rfl rfl
  · exact ⟨v, by rw [Memory.read_write_other _ _ hbyte, hv], (if_neg (by omega)).symm⟩

/-- The slot of group position `g` after the groups `gs` have been deposited from `k` on: position `k + n` has group `n`
ORed in, and every other slot keeps its value (R89, R153). -/
theorem slot_orList {m : Memory} {k : Nat} (gs : List Sym) {g : Nat} {v : Byte} (hv : m.read (g / 4) = some v) :
    ∃ v', (m.orList k gs).read (g / 4) = some v' ∧
      (∀ n, g = k + n → n < gs.length → some (slotOf v' (g % 4)) = (gs[n]?).map (slotOf v (g % 4) ||| ·)) ∧
      (g < k ∨ k + gs.length ≤ g → slotOf v' (g % 4) = slotOf v (g % 4)) := by
  induction gs generalizing m k v with
  | nil => exact ⟨v, hv, fun _ _ hn => absurd hn (Nat.not_lt_zero _), fun _ => rfl⟩
  | cons sym gs ih =>
    obtain ⟨w, hw, hslot⟩ := slot_write_placeGroup k sym hv
    obtain ⟨v', hv', hin, hout⟩ := ih (k := k + 1) hw
    refine ⟨v', hv', fun n hg hn => ?_, fun hg => ?_⟩
    · cases n with
      | zero => rw [hout (by omega), hslot, if_pos (by omega)]; rfl
      | succ n => rw [hin n (by omega) (Nat.lt_of_succ_lt_succ hn), hslot, if_neg (by omega)]; rfl
    · rw [List.length_cons] at hg
      rw [hout (by omega), hslot, if_neg (by omega)]

/-- The run with its separator test written out: the low test reads group 0, the high one the last group (R152). -/
theorem run_eq_groups_append_separator (c : Config) (cc : Code) :
    run c cc = (List.range (ngroups cc)).map (groupOf cc) ++
      (if groupOf cc (if c.compactSepTest = .low then 0 else ngroups cc - 1) ≠ 0b11#2 then [0b11#2] else []) := by
  cases h : c.compactSepTest <;> simp [run, sepCompact, h, symEndChar]

/-- Settles O25: the boundary check is on the run's length, and a run that fits is one deposit per group, each into its
own slot. -/
theorem appendCompactDepositsRunThatFits : Obligations.AppendCompactDepositsRunThatFits := by
  intro cc limit s hl hb gs hgs
  rw [← run_eq_groups_append_separator] at hgs
  subst hgs
  refine ⟨appendCompact_of_not_fits, fun hfit => ⟨_, appendCompact_of_fits hfit hl hb, ?_, ?_⟩⟩
  · exact fun _ _ => slot_orList _
  · rintro a (ha | ha)
    · exact Memory.read_orList_before _ _ ha
    · exact Memory.read_orList_after _ _ ha

end Machine

end Sys2Proof
end

section
/-! SUPPORT. The ROM entry of a Morse pattern, group by group, the check that accepts these entries only, and the
refusal of a block with any other (R102). -/

namespace Sys2Proof.Machine

/-! ### Refusal -/

/-- Settles O5: the two answers of a step with illegal parameters. -/
theorem illegalConfigurationIsRefused : Obligations.IllegalConfigurationIsRefused :=
  fun _ hc => ⟨fun hr => by rw [step_of_illegal hc, hr]; rfl, fun hr => by rw [step_of_illegal hc, if_pos hr]⟩

/-- What the check of a configuration's two ROMs asks (R9, R102). -/
theorem romOk_iff (c : Config) :
    c.romOk = true ↔ c.letterRom.length = 26 ∧ c.digitRom.length = 10 ∧
      (∀ cc ∈ c.letterRom, romEntryShape cc = true) ∧ ∀ cc ∈ c.digitRom, romEntryShape cc = true := by
  simp [Config.romOk, and_assoc]

/-- A block with a ROM entry of another shape is refused as BAD_ROM (R102, R250). -/
theorem step_of_badEntry {s : State} {cc : Code} (hmem : cc ∈ s.cfg.letterRom ∨ cc ∈ s.cfg.digitRom)
    (hcc : romEntryShape cc ≠ true) : step s = .refused .badRom := by
  have hrom : s.cfg.romOk ≠ true := fun hok =>
    have ⟨_, _, hletter, hdigit⟩ := (romOk_iff s.cfg).mp hok
    hcc (hmem.elim (hletter cc) (hdigit cc))
  have hc : s.cfg.wellFormed ≠ true := mt rom_of_wellFormed hrom
  exact (illegalConfigurationIsRefused s (Bool.eq_false_iff.mpr hc)).1 (Bool.eq_false_iff.mpr hrom)

/-! ### Codes by their groups -/

/-- Bit `i` of a code is bit `i % 2` of its group `i / 2` (R16). -/
theorem getLsbD_eq_getLsbD_groupOf (cc : Code) (i : Nat) : cc.getLsbD i = (groupOf cc (i / 2)).getLsbD (i % 2) := by
  rw [groupOf, BitVec.getLsbD_extractLsb', Nat.div_add_mod, decide_eq_true (Nat.mod_lt i (by decide)), Bool.true_and]

/-- A code is given by its groups (R16). -/
theorem eq_of_groupOf_eq {cc cc' : Code} (h : ∀ g, groupOf cc g = groupOf cc' g) : cc = cc' := by
  refine BitVec.eq_of_getLsbD_eq fun i _ => ?_
  rw [getLsbD_eq_getLsbD_groupOf, h, ← getLsbD_eq_getLsbD_groupOf]

theorem groupOf_or (cc cc' : Code) (g : Nat) : groupOf (cc ||| cc') g = groupOf cc g ||| groupOf cc' g :=
  BitVec.extractLsb'_or

/-- A symbol placed at group `n` shows there and leaves the other groups NUL (R16, R102). -/
theorem groupOf_shiftLeft (sym : Sym) {n : Nat} (hn : n < 8) (g : Nat) :
    groupOf ((sym.setWidth 16) <<< (2 * n)) g = if g = n then sym else symNul := by
  refine BitVec.eq_of_getLsbD_eq fun i hi => ?_
  rw [groupOf, BitVec.getLsbD_extractLsb', BitVec.getLsbD_shiftLeft, BitVec.getLsbD_setWidth]
  rcases Nat.lt_trichotomy g n with hg | rfl | hg
  · have hbelow : 2 * g + i < 2 * n := by omega
    simp [symNul, hbelow, hg.ne]
  · have hin : 2 * g + i < 16 ∧ i < 16 := by omega
    simp [hi, hin]
  · have habove : 2 ≤ 2 * g + i - 2 * n := by omega
    simp [symNul, BitVec.getLsbD_of_ge sym _ habove, hg.ne']

/-- The group count is at most `n` exactly when all groups from `n` on are NUL (R16). -/
theorem ngroups_le_iff_groupOf (cc : Code) (n : Nat) : ngroups cc ≤ n ↔ ∀ g, n ≤ g → groupOf cc g = symNul := by
  rw [ngroups_le_iff]
  constructor
  · intro hz g hg
    have hsplit : 2 * g = 2 * n + 2 * (g - n) := by omega
    rw [groupOf_eq_ushiftRight, hsplit, BitVec.shiftRight_add, hz, BitVec.zero_ushiftRight, BitVec.setWidth_zero]
    rfl
  · intro hnul
    refine BitVec.eq_of_getLsbD_eq fun i _ => ?_
    rw [BitVec.getLsbD_ushiftRight, getLsbD_eq_getLsbD_groupOf, hnul _ (by omega)]
    simp [symNul]

/-! ### The entry of a pattern -/

/-- The groups of a pattern's entry: a symbol for each mark, then END_CHAR (R102). -/
def entryGroups (pattern : List Mark) : List Sym := pattern.map markSym ++ [symEndChar]

/-- The entry from group `n` on has its groups there and NUL everywhere else (R102). -/
theorem groupOf_romEntryFrom {n : Nat} {pattern : List Mark} (h : n + pattern.length ≤ 7) (g : Nat) :
    groupOf (romEntryFrom n pattern) g = if g < n then symNul else (entryGroups pattern)[g - n]?.getD symNul := by
  induction pattern generalizing n with
  | nil =>
    rw [romEntryFrom, groupOf_shiftLeft symEndChar (n := n) (Nat.lt_succ_of_le h)]
    rcases Nat.lt_trichotomy g n with hg | rfl | hg
    · rw [if_neg hg.ne, if_pos hg]
    · simp [entryGroups]
    · have hskip : g - n = g - (n + 1) + 1 := by omega
      rw [if_neg hg.ne', if_neg (by omega), hskip]
      rfl
  | cons m ms ih =>
    rw [List.length_cons] at h
    rw [romEntryFrom, groupOf_or, groupOf_shiftLeft (markSym m) (by omega), ih (by omega)]
    rcases Nat.lt_trichotomy g n with hg | rfl | hg
    · rw [if_neg hg.ne, if_pos (Nat.lt_succ_of_lt hg), if_pos hg]
      rfl
    · simp [entryGroups, symNul]
    · have hskip : g - n = g - (n + 1) + 1 := by omega
      rw [if_neg hg.ne', if_neg (by omega), if_neg (by omega), hskip]
      exact BitVec.zero_or

section
variable {pattern : List Mark} (h : pattern.length ≤ 7)
include h

theorem groupOf_romEntry (g : Nat) : groupOf (romEntry pattern) g = (entryGroups pattern)[g]?.getD symNul := by
  rw [romEntry, groupOf_romEntryFrom (by omega)]
  rfl

theorem groupOf_romEntry_mark {n : Nat} {m : Mark} (hm : pattern[n]? = some m) :
    groupOf (romEntry pattern) n = markSym m := by
  have hn : n < pattern.length := (List.getElem?_eq_some_iff.mp hm).1
  rw [groupOf_romEntry h, entryGroups, List.getElem?_append_left (by simpa using hn), List.getElem?_map, hm]
  rfl

theorem groupOf_romEntry_end : groupOf (romEntry pattern) pattern.length = symEndChar := by
  simp [groupOf_romEntry h, entryGroups]

theorem groupOf_romEntry_above {n : Nat} (hn : pattern.length < n) : groupOf (romEntry pattern) n = symNul := by
  rw [groupOf_romEntry h, List.getElem?_eq_none (by simpa [entryGroups] using hn)]
  rfl

theorem ngroups_romEntry : ngroups (romEntry pattern) = pattern.length + 1 := by
  have hle : ngroups (romEntry pattern) ≤ pattern.length + 1 :=
    (ngroups_le_iff_groupOf _ _).mpr fun _ => groupOf_romEntry_above h
  have hgt : ¬ngroups (romEntry pattern) ≤ pattern.length := fun hn => by
    have hnul := (ngroups_le_iff_groupOf _ _).mp hn pattern.length (Nat.le_refl _)
    rw [groupOf_romEntry_end h] at hnul
    exact absurd hnul (by decide)
  omega

end

/-! ### The check of an entry -/

/-- What the check of a ROM entry asks (R102). -/
theorem romEntryShape_iff (cc : Code) :
    romEntryShape cc = true ↔ 2 ≤ ngroups cc ∧ ngroups cc ≤ 8 ∧ groupOf cc (ngroups cc - 1) = symEndChar ∧
      ∀ g, g < ngroups cc - 1 → groupOf cc g = symDit ∨ groupOf cc g = symDah := by
  simp [romEntryShape, and_assoc]

theorem romEntryShape_romEntry {pattern : List Mark} (hlow : 1 ≤ pattern.length) (hhigh : pattern.length ≤ 7) :
    romEntryShape (romEntry pattern) = true := by
  rw [romEntryShape_iff, ngroups_romEntry hhigh]
  refine ⟨by omega, by omega, groupOf_romEntry_end hhigh, fun g hg => ?_⟩
  rw [groupOf_romEntry_mark hhigh (List.getElem?_eq_getElem hg), markSym]
  split
  · exact .inr rfl
  · exact .inl rfl

/-- The pattern an entry holds: a mark for each group below its END_CHAR. -/
def patternOf (cc : Code) : List Mark := (List.range (ngroups cc - 1)).map fun g => groupOf cc g == symDah

@[simp] theorem length_patternOf (cc : Code) : (patternOf cc).length = ngroups cc - 1 := by
  simp [patternOf]

theorem markSym_beq_symDah {sym : Sym} (h : sym = symDit ∨ sym = symDah) : markSym (sym == symDah) = sym := by
  rcases h with rfl | rfl <;> rfl

/-- An entry of the right shape is the entry of the pattern it holds (R102). -/
theorem romEntry_patternOf {cc : Code} (h : romEntryShape cc = true) : romEntry (patternOf cc) = cc := by
  obtain ⟨hlow, hhigh, hend, hmarks⟩ := (romEntryShape_iff cc).mp h
  have hlen : (patternOf cc).length ≤ 7 := by rw [length_patternOf]; omega
  refine eq_of_groupOf_eq fun g => ?_
  rcases Nat.lt_trichotomy g (patternOf cc).length with hg | rfl | hg
  · rw [groupOf_romEntry_mark hlen (List.getElem?_eq_getElem hg)]
    simpa [patternOf] using markSym_beq_symDah (hmarks g (by simpa using hg))
  · rw [groupOf_romEntry_end hlen, length_patternOf, hend]
  · have hnul := (ngroups_le_iff_groupOf cc _).mp (Nat.le_refl _) g (by rw [length_patternOf] at hg; omega)
    rw [groupOf_romEntry_above hlen hg, hnul]

/-- The check accepts exactly the entries of the patterns of 1 to 7 marks (R102). -/
theorem romEntryShape_iff_exists_pattern (cc : Code) :
    romEntryShape cc = true ↔
      ∃ pattern : List Mark, 1 ≤ pattern.length ∧ pattern.length ≤ 7 ∧ cc = romEntry pattern := by
  constructor
  · intro h
    obtain ⟨hlow, hhigh, _, _⟩ := (romEntryShape_iff cc).mp h
    have hlen := length_patternOf cc
    exact ⟨patternOf cc, by omega, by omega, (romEntry_patternOf h).symm⟩
  · rintro ⟨pattern, hlow, hhigh, rfl⟩
    exact romEntryShape_romEntry hlow hhigh

/-- Settles O21: an entry is given by its groups, so the check accepts no other code than a pattern's entry. -/
theorem romEntryHoldsItsPattern : Obligations.RomEntryHoldsItsPattern := by
  refine ⟨fun pattern _ h => ⟨ngroups_romEntry h, fun _ _ => groupOf_romEntry_mark h, groupOf_romEntry_end h,
    fun _ => groupOf_romEntry_above h⟩, romEntryShape_iff_exists_pattern, fun s cc hmem hne => ?_⟩
  refine step_of_badEntry hmem fun hcc => ?_
  obtain ⟨pattern, hlow, hhigh, heq⟩ := (romEntryShape_iff_exists_pattern cc).mp hcc
  exact hne pattern hlow hhigh heq

end Sys2Proof.Machine
end

section
/-! SUPPORT. LOOKUP and RESOLVE under a legal configuration: every byte's index is in range (R106, R145). -/

namespace Sys2Proof.Machine

/-- A LOOKUP whose index is in range answers the entry there (R106). -/
theorem lookup_of_inRange {rom : List Code} {first c : Byte} (hf : first ≤ c)
    (hi : c.toNat - first.toNat < rom.length) :
    ∃ cc, rom[c.toNat - first.toNat]? = some cc ∧ lookup rom first c = .ok cc := by
  have hentry := List.getElem?_eq_getElem hi
  refine ⟨_, hentry, ?_⟩
  rw [lookup, if_pos hf, BitVec.toNat_sub_of_le hf, hentry]

/-- The normalized letter of a letter is an upper-case one (R121, R122). -/
theorem norm_of_isLetter {v : Byte} (h : isLetter v = true) : 0x41#8 ≤ norm v ∧ norm v ≤ 0x5A#8 := by
  simp only [isLetter, Bool.or_eq_true, Bool.and_eq_true, decide_eq_true_eq] at h
  rw [norm]
  split <;> bv_omega

theorem letter_inRange {v ch : Byte} (h : classify v = .letter ch) : 0x41#8 ≤ ch ∧ ch ≤ 0x5A#8 := by
  rw [classify] at h
  split_ifs at h with hl
  cases h
  exact norm_of_isLetter hl

theorem number_inRange {v ch : Byte} (h : classify v = .number ch) : 0x30#8 ≤ ch ∧ ch ≤ 0x39#8 := by
  rw [classify] at h
  split_ifs at h with _ hn
  cases h
  simpa [isNumber] using hn

section
variable {c : Config} (hc : c.wellFormed = true) {v ch : Byte}
include hc

/-- The 26 entries of a legal LETTER_ROM cover every letter (R9, R106). -/
theorem resolve_of_letter (h : classify v = .letter ch) :
    ∃ cc, c.letterRom[ch.toNat - 0x41]? = some cc ∧ resolve c (classify v) = .ok (some cc) := by
  obtain ⟨hlen, _, _, _⟩ := (romOk_iff c).mp (rom_of_wellFormed hc)
  obtain ⟨hlow, hhigh⟩ := letter_inRange h
  obtain ⟨cc, hentry, hlookup⟩ := lookup_of_inRange (rom := c.letterRom) hlow (by bv_omega)
  exact ⟨cc, hentry, by rw [h, resolve, hlookup, Micro.bind_ok]⟩

/-- The 10 entries of a legal DIGIT_ROM cover every digit (R9, R106). -/
theorem resolve_of_number (h : classify v = .number ch) :
    ∃ cc, c.digitRom[ch.toNat - 0x30]? = some cc ∧ resolve c (classify v) = .ok (some cc) := by
  obtain ⟨_, hlen, _, _⟩ := (romOk_iff c).mp (rom_of_wellFormed hc)
  obtain ⟨hlow, hhigh⟩ := number_inRange h
  obtain ⟨cc, hentry, hlookup⟩ := lookup_of_inRange (rom := c.digitRom) hlow (by bv_omega)
  exact ⟨cc, hentry, by rw [h, resolve, hlookup, Micro.bind_ok]⟩

/-- Every class but IGNORED resolves to a code (R145). -/
theorem resolve_of_not_ignored (h : classify v ≠ .ignored) : ∃ cc, resolve c (classify v) = .ok (some cc) := by
  cases hv : classify v with
  | letter ch =>
    obtain ⟨cc, _, hr⟩ := resolve_of_letter hc hv
    exact ⟨cc, hv ▸ hr⟩
  | number ch =>
    obtain ⟨cc, _, hr⟩ := resolve_of_number hc hv
    exact ⟨cc, hv ▸ hr⟩
  | space => exact ⟨_, rfl⟩
  | stop => exact ⟨_, rfl⟩
  | ignored => exact absurd hv h

end

/-- Settles O22, by the class of the byte. -/
theorem lookupIsAlwaysInRange : Obligations.LookupIsAlwaysInRange := fun _ _ hc =>
  ⟨fun h => by rw [h]; rfl, resolve_of_not_ignored hc, fun _ => resolve_of_letter hc, fun _ => resolve_of_number hc,
   fun h => by rw [h]; rfl, fun h => by rw [h]; rfl⟩

end Sys2Proof.Machine
end

section
/-! SUPPORT. The configuration is kept by every agent's step (R107). -/

namespace Sys2Proof.Machine

theorem cfg_startEncode (mode : Mode) (s : State) : (startEncode mode s).cfg = s.cfg := by
  rcases startEncode_cases mode s with ⟨_, h⟩ | ⟨_, _, h⟩ | ⟨_, _, _, h⟩ <;> rw [h] <;> rfl

theorem cfg_startDispatch (s : State) : (startDispatch s).cfg = s.cfg := by
  rcases Nat.lt_or_ge s.cfg.bufSize s.dlen.toNat with h | h
  · rw [startDispatch_of_range h]; rfl
  · rw [startDispatch_of_legal h]

/-- An issue keeps the configuration when the command's own start does (R241). -/
theorem cfg_issue {o : BitVec 2} {start : State → State} {s t : State} (hstart : ∀ u, (start u).cfg = u.cfg)
    (h : issue o start s = .next t) : t.cfg = s.cfg := by
  rcases issue_cases h with ⟨_, rfl⟩ | ⟨_, rfl⟩
  · rfl
  · exact hstart _

theorem cfg_exec {i : Instr} {s t : State} (h : exec i s = .next t) : t.cfg = s.cfg := by
  cases i with
  | encodeAligned | encodeCompact => exact cfg_issue (cfg_startEncode _) h
  | dispatch => exact cfg_issue cfg_startDispatch h
  | decode => exact cfg_issue (start := startDecode) (fun _ => rfl) h

theorem cfg_illegalCommand {s t : State} (h : illegalCommand s = .next t) : t.cfg = s.cfg := by
  cases hb : s.busy with
  | true => rw [illegalCommand_of_busy hb] at h; cases h; rfl
  | false => rw [illegalCommand_of_idle hb] at h; cases h; rfl

theorem cfg_writeCmd {w : Word} {s t : State} (h : writeCmd w s = .next t) : t.cfg = s.cfg := by
  rcases writeCmd_cases w s with ⟨i, _, hw⟩ | ⟨_, hw⟩ <;> rw [hw] at h
  · exact cfg_exec h
  · exact cfg_illegalCommand h

theorem cfg_hostAccess {op : BusOp} {s t : State} (h : hostAccess op s = .next t) : t.cfg = s.cfg := by
  cases op with
  | read addr width =>
    obtain ⟨v, n, rfl⟩ := hostRead_cases h
    rfl
  | write addr width d =>
    rcases hostWrite_cases h with h | ⟨r, rfl⟩ | ⟨_, _, _, rfl⟩ | ⟨_, _, _, rfl⟩ | rfl
    · exact cfg_writeCmd h
    · obtain ⟨_, _, _, _, _, _, hw⟩ := writeReg_eq d s r
      rw [hw]
    all_goals rfl

theorem cfg_coreStep {s t : State} (h : coreStep s = .next t) : t.cfg = s.cfg := by
  rw [(stepFrame_coreStep h).fields]

theorem cfg_acceptEvent (s : State) : (acceptEvent s).cfg = s.cfg := by
  rcases acceptEvent_cases s with ⟨_, h⟩ | ⟨_, _, _, h⟩ | ⟨_, _, _, _, _, h⟩ <;> rw [h] <;> rfl

/-- One atomic step of any agent keeps the configuration (R19, R107). -/
theorem cfg_act {a : Action} {s t : State} (h : act a s = .next t) : t.cfg = s.cfg := by
  cases a with
  | host op => exact cfg_hostAccess h
  | core => exact cfg_coreStep h
  | accept => cases h; exact cfg_acceptEvent s
  | reset => cases h; rfl

/-- Settles O57: the step is one agent's, and no agent's step reaches the configuration. -/
theorem romNeverChanges : Obligations.RomNeverChanges := by
  intro s t h
  rcases step_cases (wellFormed_of_step h) with ⟨_, hstep⟩ | ⟨a, rest, _, hstep⟩ <;> rw [hstep] at h
  · exact cfg_coreStep h
  · exact cfg_act (s := { s with schedule := rest }) h

end Sys2Proof.Machine
end

section
/-! SUPPORT. CLASSIFY by the ranges of the byte (R121 to R130). -/

namespace Sys2Proof.Machine

variable {v : Byte}

theorem isLetter_iff : isLetter v = true ↔ (0x41#8 ≤ v ∧ v ≤ 0x5A#8) ∨ (0x61#8 ≤ v ∧ v ≤ 0x7A#8) := by
  simp [isLetter]

theorem isNumber_iff : isNumber v = true ↔ 0x30#8 ≤ v ∧ v ≤ 0x39#8 := by
  simp [isNumber]

theorem isSpace_iff : isSpace v = true ↔ v = 0x09#8 ∨ v = 0x20#8 := by
  simp [isSpace]

theorem isStop_iff : isStop v = true ↔ (0x01#8 ≤ v ∧ v ≤ 0x1F#8) ∧ v ≠ 0x09#8 := by
  simp [isStop]

/-- An upper-case letter is its own normalized character (R122). -/
theorem classify_of_upper (hlow : 0x41#8 ≤ v) (hhigh : v ≤ 0x5A#8) : classify v = .letter v := by
  rw [classify, if_pos (isLetter_iff.mpr (.inl ⟨hlow, hhigh⟩)), norm, if_neg (by bv_omega)]

/-- A lower-case letter is normalized to its upper-case one (R122). -/
theorem classify_of_lower (hlow : 0x61#8 ≤ v) (hhigh : v ≤ 0x7A#8) : classify v = .letter (v - 0x20#8) := by
  rw [classify, if_pos (isLetter_iff.mpr (.inr ⟨hlow, hhigh⟩)), norm, if_pos hlow]

/-- The class does not see the case of a letter (R130). -/
theorem classify_lower_eq_upper (hlow : 0x61#8 ≤ v) (hhigh : v ≤ 0x7A#8) : classify v = classify (v - 0x20#8) := by
  rw [classify_of_lower hlow hhigh, classify_of_upper (by bv_omega) (by bv_omega)]

theorem classify_of_digit (hlow : 0x30#8 ≤ v) (hhigh : v ≤ 0x39#8) : classify v = .number v := by
  have hl : ¬isLetter v = true := by rw [isLetter_iff]; bv_omega
  rw [classify, if_neg hl, if_pos (isNumber_iff.mpr ⟨hlow, hhigh⟩)]

theorem classify_of_blank (h : v = 0x09#8 ∨ v = 0x20#8) : classify v = .space := by
  rcases h with rfl | rfl <;> rfl

/-- A control byte but TAB, which is a space (R125). -/
theorem classify_of_control (hlow : 0x01#8 ≤ v) (hhigh : v ≤ 0x1F#8) (htab : v ≠ 0x09#8) : classify v = .stop := by
  have hl : ¬isLetter v = true := by rw [isLetter_iff]; bv_omega
  have hn : ¬isNumber v = true := by rw [isNumber_iff]; bv_omega
  have hs : ¬isSpace v = true := by rw [isSpace_iff]; bv_omega
  rw [classify, if_neg hl, if_neg hn, if_neg hs, if_pos (isStop_iff.mpr ⟨⟨hlow, hhigh⟩, htab⟩)]

/-- The IGNORED bytes: the five gaps between the other classes (R126). -/
theorem classify_of_gap (h : v = 0x00#8 ∨ (0x21#8 ≤ v ∧ v ≤ 0x2F#8) ∨ (0x3A#8 ≤ v ∧ v ≤ 0x40#8) ∨
    (0x5B#8 ≤ v ∧ v ≤ 0x60#8) ∨ 0x7B#8 ≤ v) : classify v = .ignored := by
  have hl : ¬isLetter v = true := by rw [isLetter_iff]; bv_omega
  have hn : ¬isNumber v = true := by rw [isNumber_iff]; bv_omega
  have hs : ¬isSpace v = true := by rw [isSpace_iff]; bv_omega
  have ht : ¬isStop v = true := by rw [isStop_iff]; bv_omega
  rw [classify, if_neg hl, if_neg hn, if_neg hs, if_neg ht]

/-- Settles O19, row by row of R129's table: each range lies in one class. -/
theorem everyByteIsClassified : Obligations.EveryByteIsClassified := fun _ =>
  ⟨fun h => classify_of_gap (.inl h),
   fun hlow hhigh => classify_of_control hlow (by bv_omega) (by bv_omega),
   fun h => classify_of_blank (.inl h),
   fun hlow hhigh => classify_of_control (by bv_omega) hhigh (by bv_omega),
   fun h => classify_of_blank (.inr h),
   fun hlow hhigh => classify_of_gap (.inr (.inl ⟨hlow, hhigh⟩)),
   classify_of_digit,
   fun hlow hhigh => classify_of_gap (.inr (.inr (.inl ⟨hlow, hhigh⟩))),
   classify_of_upper,
   fun hlow hhigh => classify_of_gap (.inr (.inr (.inr (.inl ⟨hlow, hhigh⟩)))),
   classify_of_lower,
   fun h => classify_of_gap (.inr (.inr (.inr (.inr h)))),
   classify_lower_eq_upper⟩

end Sys2Proof.Machine
end

section
/-! SUPPORT. E_SCAN over an IGNORED byte (R133, R145, R161). -/

namespace Sys2Proof.Machine

theorem coreStep_of_eScan {s : State} (h : s.eng = .eScan) : coreStep s = (scanStep s).toOutcome := by
  simp only [coreStep, h]

/-- The main loop goes on while a byte is left and nothing has been truncated (R140). -/
theorem scanning_iff (s : State) : s.scanning = true ↔ s.i < s.tlen.toNat ∧ s.halted = false := by
  simp [State.scanning]

/-- Without truncation only the text index decides whether the main loop goes on (R140, R161). -/
theorem toScanOrTerm_of_not_halted {s : State} (h : s.halted = false) :
    toScanOrTerm s = { s with eng := if s.i < s.tlen.toNat then .eScan else .eTerm } := by
  simp [toScanOrTerm, scanning_iff, h]

/-- Settles O28: the byte resolves to no code, so the step appends nothing, and `s.halted` stays false. -/
theorem ignoredByteContributesNothing : Obligations.IgnoredByteContributesNothing := by
  intro s v he hs hr hv
  obtain ⟨_, hh⟩ := (scanning_iff s).mp hs
  have hcode : resolve s.cfg (classify v) = .ok none := by rw [hv]; rfl
  rw [coreStep_of_eScan he, scanStep_of_ignored hs hr hcode, Micro.toOutcome_ok]
  exact congrArg Host.Outcome.next (toScanOrTerm_of_not_halted hh)

end Sys2Proof.Machine
end

section
/-! SUPPORT. ENCODE's issue by mode, its rejections (R141, R241), and one E_CLEAR step (R143, R161). -/

namespace Sys2Proof.Machine

/-! ### Issue -/

/-- The command whose opcode selects a mode (R140). -/
def encodeInstr : Mode → Instr
  | .aligned => .encodeAligned
  | .compact => .encodeCompact

theorem exists_mode_of_encode {i : Instr} (h : i = .encodeAligned ∨ i = .encodeCompact) :
    ∃ mode, i = encodeInstr mode := by
  rcases h with rfl | rfl
  · exact ⟨.aligned, rfl⟩
  · exact ⟨.compact, rfl⟩

/-- With BUSY = 0 an ENCODE runs its operand checks on the latched state (R241). -/
theorem exec_encode_of_idle (mode : Mode) {s : State} (hb : s.busy = false) :
    exec (encodeInstr mode) s = .next (startEncode mode (latch (encodeInstr mode).op (clearStatus s))) := by
  rw [exec_eq_issue, issue_of_idle _ _ hb]
  cases mode <;> rfl

/-- An ENCODE that its checks reject with an error code changes STATUS, RESULT and the latched copies (R241, R244). -/
theorem exec_encode_of_rejected {mode : Mode} {v : Word} {s : State} (hb : s.busy = false) (hv : v.msb = true)
    (hs : startEncode mode (latch (encodeInstr mode).op (clearStatus s)) =
      finish v (latch (encodeInstr mode).op (clearStatus s))) :
    exec (encodeInstr mode) s =
      .next { s with done := true, err := true, trunc := false, result := v, op := (encodeInstr mode).op,
                     tlen := s.textLen, cap := s.capacity, dlen := s.length, base := s.flags &&& 0xF0#8 } := by
  rw [exec_encode_of_idle mode hb, hs]
  simp [finish, latch, clearStatus, flagsBase, hv, (busy_eq_false_iff s).mp hb]

/-- Settles O9: in either mode the first operand check fails, and E_CAPACITY is negative. -/
theorem encodeBelowThresholdIsRejected : Obligations.EncodeBelowThresholdIsRejected := fun _ hc hb hcap =>
  have ⟨herr, _, _, _⟩ := errors_of_wellFormed hc
  ⟨exec_encode_of_rejected (mode := .aligned) hb herr (startEncode_of_capacity _ hcap),
    exec_encode_of_rejected (mode := .compact) hb herr (startEncode_of_capacity _ hcap)⟩

/-- Settles O10: in either mode the first operand check passes and the second fails, and E_RANGE is negative. -/
theorem encodeOutOfRangeIsRejected : Obligations.EncodeOutOfRangeIsRejected := fun _ hc hb hcap hrange =>
  have ⟨_, herr, _, _⟩ := errors_of_wellFormed hc
  ⟨exec_encode_of_rejected (mode := .aligned) hb herr (startEncode_of_range _ hcap hrange),
    exec_encode_of_rejected (mode := .compact) hb herr (startEncode_of_range _ hcap hrange)⟩

/-! ### E_CLEAR -/

theorem coreStep_of_eClear {s : State} (h : s.eng = .eClear) : coreStep s = (clearStep s).toOutcome := by
  simp only [coreStep, h]

/-- E_CLEAR at a byte below the last one (R161). -/
theorem coreStep_clear_of_more {s : State} (he : s.eng = .eClear) (hj : s.j + 1 < s.cap.toNat) :
    coreStep s = .next { writeBuf s.j 0#8 s with j := s.j + 1 } := by
  rw [coreStep_of_eClear he, clearStep_of_lt (by omega), if_pos hj, Micro.toOutcome_ok]

/-- E_CLEAR at the last byte (R144, R161). -/
theorem coreStep_clear_of_last {s : State} (he : s.eng = .eClear) (hj : s.j + 1 = s.cap.toNat) :
    coreStep s = .next (toScanOrTerm (resetCursors { writeBuf s.j 0#8 s with j := 0 })) := by
  rw [coreStep_of_eClear he, clearStep_of_lt (by omega), if_neg (by omega), Micro.toOutcome_ok]

/-- What E_CLEAR can do below the capacity: zero a byte and go on, or zero the last one and start the main loop. -/
theorem coreStep_clear_cases {s t : State} (he : s.eng = .eClear) (hj : s.j < s.cap.toNat) (h : coreStep s = .next t) :
    (s.j + 1 < s.cap.toNat ∧ t = { writeBuf s.j 0#8 s with j := s.j + 1 }) ∨
    (s.j + 1 = s.cap.toNat ∧ t = toScanOrTerm (resetCursors { writeBuf s.j 0#8 s with j := 0 })) := by
  rcases Nat.lt_or_eq_of_le (Nat.succ_le_of_lt hj) with hmore | hlast
  · exact .inl ⟨hmore, Host.Outcome.next.inj (h.symm.trans (coreStep_clear_of_more he hmore))⟩
  · exact .inr ⟨hlast, Host.Outcome.next.inj (h.symm.trans (coreStep_clear_of_last he hlast))⟩

/-- Settles O23: the step below the last byte and the step at it, both with the one write of 0 at `j`. -/
theorem clearStepZeroesOneByte : Obligations.ClearStepZeroesOneByte := by
  intro s he hj
  have hsame : (s.buf.write s.j 0#8).read s.j = some 0#8 := Memory.read_write_same _ _ _
  have hother : ∀ a, a ≠ s.j → (s.buf.write s.j 0#8).read a = s.buf.read a :=
    fun _ => Memory.read_write_other _ _
  rcases Nat.lt_or_eq_of_le (Nat.succ_le_of_lt hj) with hmore | hlast
  · exact ⟨_, coreStep_clear_of_more he hmore, hsame, hother, rfl, rfl, rfl, rfl, fun _ => ⟨he, rfl⟩,
      fun hge => absurd hge (Nat.not_le.mpr hmore)⟩
  · refine ⟨_, coreStep_clear_of_last he hlast, ?_⟩
    rw [toScanOrTerm_of_not_halted rfl]
    exact ⟨hsame, hother, rfl, rfl, rfl, rfl, fun hmore => absurd hlast hmore.ne,
      fun _ => ⟨rfl, rfl, rfl, rfl, rfl⟩⟩

end Sys2Proof.Machine
end

section
/-! SUPPORT. What the two layouts share: the cursor of the mode, the size of a code in the cursor's units, and an append
that does not fit (R147, R150, R155). -/

namespace Sys2Proof.Machine

/-- The write position of the running mode: a byte of BUF (R146) or a group (R153). -/
def State.cursor (s : State) : Nat :=
  match s.mode with
  | .aligned => s.p
  | .compact => s.k

/-- How far the append of a code moves the cursor (R146, R153). -/
def codeSize (c : Config) (mode : Mode) (cc : Code) : Nat :=
  match mode with
  | .aligned => (record cc).length
  | .compact => (run c cc).length

/-- `n` bytes of BUF in the units of a mode's cursor (R147, R155). -/
def Mode.units (mode : Mode) (n : Nat) : Nat :=
  match mode with
  | .aligned => n
  | .compact => 4 * n

/-- The bytes of BUF that `n` units of a mode reach into (R157). -/
def Mode.bytes (mode : Mode) (n : Nat) : Nat :=
  match mode with
  | .aligned => n
  | .compact => (n + 3) / 4

theorem encodedLength_eq (s : State) : encodedLength s = s.mode.bytes s.cursor := by
  rcases mode_cases s with hm | hm <;> simp only [encodedLength, Mode.bytes, State.cursor, hm]

/-- A code that ends beyond the limit is not appended at all (R147, R155). -/
theorem append_of_not_fits {cc : Code} {limit : Nat} {s : State}
    (h : s.mode.units limit < s.cursor + codeSize s.cfg s.mode cc) : append cc limit s = .ok (s, false) := by
  rcases mode_cases s with hm | hm <;> simp only [Mode.units, State.cursor, codeSize, hm] at h
  · rw [append_of_aligned cc limit hm, appendAligned_of_not_fits h]
  · rw [append_of_compact cc limit hm, appendCompact_of_not_fits h]

theorem toScanOrTerm_of_halted {s : State} (h : s.halted = true) : toScanOrTerm s = { s with eng := .eTerm } := by
  simp [toScanOrTerm, State.scanning, h]

/-- The first code that does not fit ends the main loop (R150). -/
theorem coreStep_scan_of_not_fits {s : State} {v : Byte} {cc : Code} (he : s.eng = .eScan) (hs : s.scanning = true)
    (hr : s.text.read s.i = some v) (hc : resolve s.cfg (classify v) = .ok (some cc))
    (h : s.mode.units (effective s) < s.cursor + codeSize s.cfg s.mode cc) :
    coreStep s = .next { s with i := s.i + 1, cc := cc, halted := true, eng := .eTerm } := by
  rw [coreStep_of_eScan he, scanStep_of_code hs hr hc,
    append_of_not_fits (s := { s with i := s.i + 1, cc := cc }) h, Micro.bind_ok, Micro.toOutcome_ok]
  exact congrArg Host.Outcome.next (toScanOrTerm_of_halted rfl)

/-- Settles O29: in either mode the code's size is beyond the units left below the effective capacity. -/
theorem truncationIsFinal : Obligations.TruncationIsFinal := by
  intro s v cc he hs hr hc h
  refine coreStep_scan_of_not_fits he hs hr hc ?_
  rcases h with ⟨hm, h⟩ | ⟨hm, h⟩ <;>
    simpa only [Mode.units, State.cursor, codeSize, hm, effective, threshold] using h

/-! ### One record -/

/-- The record with its byte tests written out (R88, R146). -/
theorem record_eq (cc : Code) :
    record cc = [cc.setWidth 8] ++ (if 0xFF < cc.toNat then [(cc >>> 8).setWidth 8] else []) ++
      (if cc.setWidth 2 ≠ 0b11#2 then [0x03#8] else []) := by
  have hlow : groupOf cc 0 = cc.setWidth 2 := groupOf_eq_ushiftRight cc 0
  have hhigh : (cc >>> 8).setWidth 8 = cc.extractLsb' 8 8 := BitVec.setWidth_ushiftRight_eq_extractLsb
  have hcond : (0xFF#16 < cc) = (0xFF < cc.toNat) := rfl
  simp only [record, sepAligned, hlow, hhigh, hcond, symEndChar, bne_iff_ne]
  rfl

/-- Settles O24: the boundary check is on the record's length, and a record that fits is written byte by byte. -/
theorem appendAlignedWritesRecordThatFits : Obligations.AppendAlignedWritesRecordThatFits := by
  intro cc limit s hl rec hrec
  rw [← record_eq] at hrec
  subst hrec
  refine ⟨appendAligned_of_not_fits, fun hfit => ⟨_, appendAligned_of_fits hfit hl, ?_, ?_⟩⟩
  · exact fun _ => Memory.read_writeList_inside _ _
  · rintro a (ha | ha)
    · exact Memory.read_writeList_before _ _ ha
    · exact Memory.read_writeList_after _ _ ha

end Sys2Proof.Machine
end

section
/-! SUPPORT. A step of the main loop keeps the margin (R160), and an accepted ENCODE completes without error (R157). -/

namespace Sys2Proof.Machine

/-! ### The bytes an append reaches -/

/-- Outside the record or run between the old and the new cursor an append changes no byte (R146, R153). -/
structure WritesUpTo (s t : State) : Prop where
  aligned : s.mode = .aligned → ∀ a, a < s.p ∨ t.p ≤ a → t.buf.read a = s.buf.read a
  compact : s.mode = .compact → ∀ a, a < s.k / 4 ∨ (t.k + 3) / 4 ≤ a → t.buf.read a = s.buf.read a

theorem writesUpTo_of_buf_eq {s t : State} (h : t.buf = s.buf) : WritesUpTo s t :=
  ⟨fun _ _ _ => by rw [h], fun _ _ _ => by rw [h]⟩

/-- An append over a cleared buffer ends at or below its limit and writes nothing outside its record or run. -/
theorem append_writesUpTo {cc : Code} {limit : Nat} {s : State} (hl : limit ≤ s.cap.toNat) (hb : bufCleared s) :
    ∃ p k buf fits, append cc limit s = .ok ({ s with p := p, k := k, buf := buf }, fits) ∧
      WritesUpTo s { s with p := p, k := k, buf := buf } ∧ ∀ a, limit ≤ a → buf.read a = s.buf.read a := by
  rcases append_cases rfl hl hb with h | ⟨hm, hfit, h⟩ | ⟨hm, hfit, h⟩
  · exact ⟨s.p, s.k, s.buf, _, h, writesUpTo_of_buf_eq rfl, fun _ _ => rfl⟩
  · have hnot : ¬s.mode = .compact := by simp [hm]
    refine ⟨_, s.k, _, _, h, ⟨fun _ a ha => ?_, fun hm' => absurd hm' hnot⟩, fun a ha => ?_⟩
    · exact ha.elim (Memory.read_writeList_before _ _) (Memory.read_writeList_after _ _)
    · exact Memory.read_writeList_after _ _ (Nat.le_trans hfit ha)
  · have hnot : ¬s.mode = .aligned := by simp [hm]
    refine ⟨s.p, _, _, _, h, ⟨fun hm' => absurd hm' hnot, fun _ a ha => ?_⟩, fun a ha => ?_⟩
    · exact ha.elim (Memory.read_orList_before _ _) (Memory.read_orList_after _ _)
    · exact Memory.read_orList_after _ _ (by omega)

/-! ### The margin -/

/-- Settles O26: a step of the main loop passes over the byte or appends below the effective capacity. -/
theorem mainLoopKeepsTheMargin : Obligations.MainLoopKeepsTheMargin := by
  intro s t hinv he h
  obtain ⟨ho, hb, _, hi, hh⟩ := (engineInv_eScan he).mp hinv.engine
  have htext : ∀ a, t.text.read a = s.text.read a := fun a => by rw [(stepFrame_coreStep h).fields]
  suffices hstep : t.busy = true ∧ (∀ a, effective s ≤ a → t.buf.read a = s.buf.read a) ∧ WritesUpTo s t by
    obtain ⟨hbusy, hkeep, haligned, hcompact⟩ := hstep
    exact ⟨hbusy, hkeep, haligned, hcompact, htext⟩
  rw [coreStep_of_eScan he] at h
  rcases scanStep_cases ((scanning_iff s).mpr ⟨hi, hh⟩) with ⟨f, hm⟩ | hm | ⟨cc, hm⟩ <;> rw [hm] at h
  · cases h
  · cases h
    exact ⟨busy_toScanOrTerm _, fun _ _ => rfl, writesUpTo_of_buf_eq rfl⟩
  · obtain ⟨p, k, buf, fits, happend, hwrites, hkeep⟩ :=
      append_writesUpTo (cc := cc) (limit := effective s) (s := { s with i := s.i + 1, cc := cc }) (Nat.sub_le _ _) hb
    obtain ⟨halted, hu⟩ := haltUnless_eq fits { s with i := s.i + 1, cc := cc, p := p, k := k, buf := buf }
    rw [happend, Micro.bind_ok, hu] at h
    cases h
    exact ⟨busy_toScanOrTerm _, hkeep, hwrites.aligned, hwrites.compact⟩

/-! ### Completion -/

theorem coreStep_of_eTerm {s : State} (h : s.eng = .eTerm) : coreStep s = (termStep s).toOutcome := by
  simp only [coreStep, h]

theorem coreStep_of_eFin {s : State} (h : s.eng = .eFin) : coreStep s = .next (finStep s) := by
  simp only [coreStep, h]

/-- A length within a 16-bit capacity is a 32-bit RESULT without the sign bit (R157). -/
theorem result_of_le_cap {n : Nat} {cap : BitVec 16} (h : n ≤ cap.toNat) :
    (BitVec.ofNat 32 n).toNat = n ∧ (BitVec.ofNat 32 n).msb = false := by
  have hlt := cap.isLt
  have hn : (BitVec.ofNat 32 n).toNat = n := by rw [BitVec.toNat_ofNat, Nat.mod_eq_of_lt (by omega)]
  exact ⟨hn, by rw [BitVec.msb_eq_false_iff_two_mul_lt, hn]; omega⟩

/-- E_TERM is followed by E_FIN: its append over a cleared buffer answers a value (R151, R161). -/
theorem eFin_of_eTerm {s t : State} (h : Inv s) (he : s.eng = .eTerm) (ht : coreStep s = .next t) : t.eng = .eFin := by
  obtain ⟨_, hb, _, _⟩ := (engineInv_eTerm he).mp h.engine
  obtain ⟨p, k, buf, fits, happend, _, _⟩ := append_writesUpTo (cc := endStop) (Nat.le_refl _) hb
  rw [coreStep_of_eTerm he, termStep, happend, Micro.bind_ok] at ht
  cases ht
  rfl

/-- An ENCODE within the invariant completes in E_FIN and in no earlier state (R160, R161). -/
theorem eFin_of_completes {s t : State} (h : Inv s) (hs : s.encoding = true) (ht : coreStep s = .next t)
    (hb : t.busy = false) : s.eng = .eFin := by
  cases he : s.eng
  case eFin => rfl
  case idle | dWalk | dEmit | dFin | xDecode => simp [State.encoding, he] at hs
  case eScan => exact absurd ((mainLoopKeepsTheMargin s t h he ht).1.symm.trans hb) (by decide)
  case eClear =>
    obtain ⟨_, hj, _⟩ := (engineInv_eClear he).mp h.engine
    rcases coreStep_clear_cases he hj ht with ⟨_, rfl⟩ | ⟨_, rfl⟩
    · exact absurd (he.symm.trans ((busy_eq_false_iff _).mp hb)) (by decide)
    · exact absurd ((busy_toScanOrTerm _).symm.trans hb) (by decide)
  case eTerm => exact absurd ((eFin_of_eTerm h he ht).symm.trans ((busy_eq_false_iff t).mp hb)) (by decide)

/-- Settles O27: the completing step is E_FIN's, whose length the invariant bounds. -/
theorem acceptedEncodeNeverFails : Obligations.AcceptedEncodeNeverFails := by
  intro s t h hs ht hb
  have he := eFin_of_completes h hs ht hb
  obtain ⟨_, _, hlow, hhigh, _⟩ := (engineInv_eFin he).mp h.engine
  obtain ⟨hresult, hmsb⟩ := result_of_le_cap hhigh
  rw [coreStep_of_eFin he] at ht
  cases ht
  exact ⟨hmsb, rfl, rfl, hlow.trans_eq hresult.symm, hresult.trans_le hhigh⟩

end Sys2Proof.Machine
end

section
/-! SUPPORT. The codes RESOLVE gives under a legal configuration: no group below their last is NUL (R9, R24, R102). -/

namespace Sys2Proof.Machine

/-! ### The code of a byte -/

/-- Under a legal configuration RESOLVE answers, and `codeOf` is its answer (R106, R145). -/
theorem resolve_eq_codeOf {c : Config} (hc : c.wellFormed = true) (v : Byte) :
    resolve c (classify v) = .ok (codeOf c v) := by
  by_cases hv : classify v = .ignored
  · simp [codeOf, hv, resolve]
  · obtain ⟨cc, hr⟩ := resolve_of_not_ignored hc hv
    simp [codeOf, hr]

theorem codeOf_of_ignored {c : Config} {v : Byte} (h : classify v = .ignored) : codeOf c v = none := by
  simp [codeOf, h, resolve]

/-- A byte's code is a ROM entry, END_WORD_CODE or END_STOP (R145). -/
theorem codeOf_cases {c : Config} (hc : c.wellFormed = true) {v : Byte} {cc : Code} (h : codeOf c v = some cc) :
    cc ∈ c.letterRom ∨ cc ∈ c.digitRom ∨ cc = c.endWordCode ∨ cc = endStop := by
  have hr := resolve_eq_codeOf hc v
  rw [h] at hr
  cases hv : classify v with
  | letter ch =>
    obtain ⟨entry, hentry, hr'⟩ := resolve_of_letter hc hv
    cases hr.symm.trans hr'
    exact .inl (List.mem_of_getElem? hentry)
  | number ch =>
    obtain ⟨entry, hentry, hr'⟩ := resolve_of_number hc hv
    cases hr.symm.trans hr'
    exact .inr (.inl (List.mem_of_getElem? hentry))
  | space => rw [hv] at hr; cases hr; exact .inr (.inr (.inl rfl))
  | stop => rw [hv] at hr; cases hr; exact .inr (.inr (.inr rfl))
  | ignored => rw [codeOf_of_ignored hv] at h; cases h

/-! ### Codes with no NUL among their groups -/

/-- No group below the group count is NUL. -/
def solidCode (cc : Code) : Prop := ∀ g, g < ngroups cc → groupOf cc g ≠ symNul

theorem solidCode_of_romEntryShape {cc : Code} (h : romEntryShape cc = true) : solidCode cc := by
  obtain ⟨_, _, hend, hmarks⟩ := (romEntryShape_iff cc).mp h
  intro g hg
  rcases Nat.lt_or_ge g (ngroups cc - 1) with hlt | hge
  · rcases hmarks g hlt with h | h <;> rw [h] <;> decide
  · rw [show g = ngroups cc - 1 by omega, hend]
    decide

/-- The codes `2^(2n) - 1` of n END_CHARs, n in 1 to 8 (R9). -/
theorem solidCode_endChars : ∀ m, m < 8 → ∀ g, g < ngroups (BitVec.ofNat 16 (4 ^ (m + 1) - 1)) →
    groupOf (BitVec.ofNat 16 (4 ^ (m + 1) - 1)) g ≠ symNul := by
  decide

theorem solidCode_endWordCode {c : Config} (hc : c.wellFormed = true) : solidCode c.endWordCode := by
  simp only [Config.wellFormed, Config.endWordOk, Bool.and_eq_true, List.any_eq_true, List.mem_range,
    beq_iff_eq] at hc
  obtain ⟨⟨⟨_, m, hm, heq⟩, _⟩, _⟩ := hc
  have hcode : c.endWordCode = BitVec.ofNat 16 (4 ^ (m + 1) - 1) := by
    rw [← heq, BitVec.ofNat_toNat, BitVec.setWidth_eq]
  rw [hcode]
  exact solidCode_endChars m hm

theorem solidCode_codeOf {c : Config} (hc : c.wellFormed = true) {v : Byte} {cc : Code} (h : codeOf c v = some cc) :
    solidCode cc := by
  obtain ⟨_, _, hletter, hdigit⟩ := (romOk_iff c).mp (rom_of_wellFormed hc)
  rcases codeOf_cases hc h with hmem | hmem | rfl | rfl
  · exact solidCode_of_romEntryShape (hletter cc hmem)
  · exact solidCode_of_romEntryShape (hdigit cc hmem)
  · exact solidCode_endWordCode hc
  · exact solidCode_endChars 7 (by decide)

/-- A run of such a code has no NUL: its separator is END_CHAR (R153). -/
theorem ne_nul_of_mem_run {c : Config} {cc : Code} (h : solidCode cc) : ∀ sym ∈ run c cc, sym ≠ symNul := by
  intro sym hsym
  simp only [run, List.mem_append, List.mem_map, List.mem_range] at hsym
  rcases hsym with ⟨g, hg, rfl⟩ | hsep
  · exact h g hg
  · split at hsep
    · rw [List.mem_singleton.mp hsep]; decide
    · cases hsep

end Sys2Proof.Machine
end

section
/-! SUPPORT. The group cursor of a Compact ENCODE is the first free slot (R154). -/

namespace Sys2Proof.Machine

/-! ### Iterations of the main loop, by the byte's code -/

theorem coreStep_scan_of_ignored {s : State} {v : Byte} (hc : s.cfg.wellFormed = true) (he : s.eng = .eScan)
    (hs : s.scanning = true) (hr : s.text.read s.i = some v) (hv : codeOf s.cfg v = none) :
    coreStep s = .next (toScanOrTerm { s with i := s.i + 1 }) := by
  rw [coreStep_of_eScan he, scanStep_of_ignored hs hr (by rw [resolve_eq_codeOf hc, hv]), Micro.toOutcome_ok]

theorem coreStep_scan_of_code {s : State} {v : Byte} {cc : Code} (hc : s.cfg.wellFormed = true) (he : s.eng = .eScan)
    (hs : s.scanning = true) (hr : s.text.read s.i = some v) (hv : codeOf s.cfg v = some cc) :
    coreStep s = ((append cc (effective s) { s with i := s.i + 1, cc := cc }).bind fun r =>
      .ok (toScanOrTerm (haltUnless r.2 r.1))).toOutcome := by
  rw [coreStep_of_eScan he, scanStep_of_code hs hr (by rw [resolve_eq_codeOf hc, hv])]

/-! ### The first free slot of a memory -/

/-- Below the capacity the slots before group `k` are not NUL and those from `k` on are. -/
def FirstFreeAt (m : Memory) (cap k : Nat) : Prop :=
  ∀ g, g < 4 * cap →
    ∃ v, m.read (g / 4) = some v ∧
      (g < k → slotOf v (g % 4) ≠ symNul) ∧ (k ≤ g → slotOf v (g % 4) = symNul)

/-- The model's frontier is about the first free slot of BUF. -/
theorem compactFrontier_iff (s : State) :
    CompactFrontier s ↔
      ((s.eng = .eScan ∨ s.eng = .eTerm) → s.mode = .compact → FirstFreeAt s.buf s.cap.toNat s.k) := by
  simp [CompactFrontier, FirstFreeAt, groupAt]

theorem firstFreeAt_cleared {m : Memory} {cap : Nat} (h : ∀ a, a < cap → m.read a = some 0#8) :
    FirstFreeAt m cap 0 :=
  fun g hg => ⟨0#8, h _ (by omega), fun hk => absurd hk (Nat.not_lt_zero g), fun _ => by simp [slotOf, symNul]⟩

/-- A run with no NUL, deposited at the first free slot, moves it past the run (R153). -/
theorem FirstFreeAt.orList {m : Memory} {cap k : Nat} {gs : List Sym} (h : FirstFreeAt m cap k)
    (hgs : ∀ sym ∈ gs, sym ≠ symNul) : FirstFreeAt (m.orList k gs) cap (k + gs.length) := by
  intro g hg
  obtain ⟨v, hv, hused, hfree⟩ := h g hg
  obtain ⟨v', hv', hin, hout⟩ := slot_orList (k := k) gs hv
  refine ⟨v', hv', fun hlt => ?_, fun hge => ?_⟩
  · rcases Nat.lt_or_ge g k with hk | hk
    · rw [hout (.inl hk)]
      exact hused hk
    · have hn : g - k < gs.length := by omega
      have hslot := hin (g - k) (by omega) hn
      rw [List.getElem?_eq_getElem hn, Option.map_some, hfree hk, symNul, BitVec.zero_or] at hslot
      rw [Option.some.inj hslot]
      exact hgs _ (List.getElem_mem hn)
  · rw [hout (.inr hge)]
    exact hfree (by omega)

/-! ### Every core step -/

theorem compactFrontier_toScanOrTerm {s : State} (h : s.mode = .compact → FirstFreeAt s.buf s.cap.toNat s.k) :
    CompactFrontier (toScanOrTerm s) :=
  (compactFrontier_iff _).mpr fun _ hm => h hm

/-- Neither DISPATCH's nor DECODE's opcode is latched while E_SCAN or E_TERM runs (R241). -/
theorem compactFrontier_of_op {s : State} (h : Inv s) (hop : s.op = 2#2 ∨ s.op = 3#2) : CompactFrontier s := by
  intro he
  have ho : EncodeOperands s := by
    rcases he with he | he
    · obtain ⟨ho, _⟩ := (engineInv_eScan he).mp h.engine
      exact ho
    · obtain ⟨ho, _⟩ := (engineInv_eTerm he).mp h.engine
      exact ho
  rcases ho.opMode with ⟨hop', _⟩ | ⟨hop', _⟩ <;> simp [hop'] at hop

theorem compactFrontier_scanStep {s t : State} (h : Inv s) (hf : CompactFrontier s) (he : s.eng = .eScan)
    (ht : coreStep s = .next t) : CompactFrontier t := by
  obtain ⟨_, hb, _, hi, hh⟩ := (engineInv_eScan he).mp h.engine
  have hs := (scanning_iff s).mpr ⟨hi, hh⟩
  have hfree := (compactFrontier_iff s).mp hf (.inl he)
  cases hr : s.text.read s.i with
  | none =>
    rw [coreStep_of_eScan he, scanStep_of_unwritten hs hr] at ht
    cases ht
  | some v =>
    cases hv : codeOf s.cfg v with
    | none =>
      rw [coreStep_scan_of_ignored h.config he hs hr hv] at ht
      cases ht
      exact compactFrontier_toScanOrTerm hfree
    | some cc =>
      rw [coreStep_scan_of_code h.config he hs hr hv] at ht
      rcases append_cases (cc := cc) (limit := effective s) (s := { s with i := s.i + 1, cc := cc }) rfl
        (Nat.sub_le _ _) hb with ha | ⟨hm, _, ha⟩ | ⟨_, _, ha⟩ <;> rw [ha, Micro.bind_ok] at ht <;> cases ht
      · exact compactFrontier_toScanOrTerm hfree
      · exact compactFrontier_toScanOrTerm fun hm' => absurd (hm.symm.trans hm') (by decide)
      · have hrun := ne_nul_of_mem_run (c := s.cfg) (solidCode_codeOf h.config hv)
        exact compactFrontier_toScanOrTerm fun hm => (hfree hm).orList hrun

/-- Settles O30: E_CLEAR leaves every slot NUL, a run has no NUL, and elsewhere no run is appended. -/
theorem compactCursorIsTheFirstFreeSlot : Obligations.CompactCursorIsTheFirstFreeSlot := by
  intro s t h hf ht
  have hinv := inv_coreStep h ht
  have hop : t.op = s.op := by rw [(stepFrame_coreStep ht).fields]
  cases he : s.eng
  case idle | dEmit => simp only [coreStep, he] at ht; cases ht; exact hf
  case eScan => exact compactFrontier_scanStep h hf he ht
  case eClear =>
    obtain ⟨_, hj, hz⟩ := (engineInv_eClear he).mp h.engine
    rcases coreStep_clear_cases he hj ht with ⟨_, rfl⟩ | ⟨hlast, rfl⟩
    · exact fun hrun => by simp [he] at hrun
    · exact compactFrontier_toScanOrTerm fun _ => firstFreeAt_cleared fun a (ha : a < s.cap.toNat) =>
        read_write_cleared hz a (by omega)
  case eTerm => exact fun hrun => by simp [eFin_of_eTerm h he ht] at hrun
  case eFin =>
    rw [coreStep_of_eFin he] at ht
    cases ht
    exact fun hrun => by simp [finStep] at hrun
  case dWalk =>
    obtain ⟨ho, _⟩ := (engineInv_dWalk he).mp h.engine
    exact compactFrontier_of_op hinv (.inl (hop.trans ho.op))
  case dFin =>
    obtain ⟨ho, _⟩ := (engineInv_dFin he).mp h.engine
    exact compactFrontier_of_op hinv (.inl (hop.trans ho.op))
  case xDecode => exact compactFrontier_of_op hinv (.inr (hop.trans ((engineInv_xDecode he).mp h.engine)))

end Sys2Proof.Machine
end

section
/-! SUPPORT. The encoded stream of either layout as the content of a list of codes (R90, R150, R157, R158). -/

namespace Sys2Proof.Machine

/-! ### Content -/

/-- Byte `a` of a cleared buffer in which the codes have been appended in a mode (R146, R153). -/
def contentByte (c : Config) (mode : Mode) (ccs : List Code) (a : Nat) : Byte :=
  match mode with
  | .aligned => (ccs.flatMap record)[a]?.getD 0#8
  | .compact => packedByte (ccs.flatMap (run c)) a

/-- The units the codes take in a mode. -/
def contentSize (c : Config) (mode : Mode) (ccs : List Code) : Nat := (ccs.map (codeSize c mode)).sum

theorem contentSize_concat (c : Config) (mode : Mode) (ccs : List Code) (cc : Code) :
    contentSize c mode (ccs ++ [cc]) = contentSize c mode ccs + codeSize c mode cc := by
  simp [contentSize]

theorem length_flatMap_record (c : Config) (ccs : List Code) :
    (ccs.flatMap record).length = contentSize c .aligned ccs :=
  List.length_flatMap

theorem length_flatMap_run (c : Config) (ccs : List Code) :
    (ccs.flatMap (run c)).length = contentSize c .compact ccs :=
  List.length_flatMap

/-- END_STOP takes the margin of either layout (R151). -/
theorem codeSize_endStop (c : Config) (mode : Mode) : codeSize c mode endStop = mode.units threshold := by
  cases mode with
  | aligned => simp only [codeSize, record_endStop]; rfl
  | compact => simp only [codeSize, run_endStop]; rfl

/-! ### The stream -/

/-- The codes of a result: those appended by the main loop, then END_STOP (R90). -/
def streamCodes (c : Config) (mode : Mode) (cap : Nat) (text : List Byte) : List Code :=
  appendedCodes c mode cap text ++ [endStop]

theorem appendedCodes_eq (c : Config) (mode : Mode) (cap : Nat) (text : List Byte) :
    appendedCodes c mode cap text =
      fitting (codeSize c mode) (mode.units (cap - threshold)) 0 (acceptedCodes c text) := by
  cases mode <;> rfl

theorem alignedStream_eq (c : Config) (cap : Nat) (text : List Byte) :
    alignedStream c cap text = (streamCodes c .aligned cap text).flatMap record := by
  simp [alignedStream, streamCodes]

theorem compactStream_eq (c : Config) (cap : Nat) (text : List Byte) :
    compactStream c cap text = (streamCodes c .compact cap text).flatMap (run c) := by
  simp [compactStream, streamCodes]

theorem streamByte_eq (c : Config) (mode : Mode) (cap : Nat) (text : List Byte) (a : Nat) :
    streamByte c mode cap text a = contentByte c mode (streamCodes c mode cap text) a := by
  cases mode with
  | aligned => rw [streamByte, alignedStream_eq, contentByte]
  | compact => rw [streamByte, compactStream_eq, contentByte]

theorem streamLength_eq (c : Config) (mode : Mode) (cap : Nat) (text : List Byte) :
    streamLength c mode cap text = mode.bytes (contentSize c mode (streamCodes c mode cap text)) := by
  cases mode with
  | aligned => rw [streamLength, alignedStream_eq, length_flatMap_record c, Mode.bytes]
  | compact => rw [streamLength, compactStream_eq, length_flatMap_run, Mode.bytes]

/-- The codes that fit end at or below the limit (R147, R155). -/
theorem add_sum_fitting_le {size : Code → Nat} {limit used : Nat} (ccs : List Code) (h : used ≤ limit) :
    used + ((fitting size limit used ccs).map size).sum ≤ limit := by
  induction ccs generalizing used with
  | nil => simpa [fitting] using h
  | cons cc ccs ih =>
    rw [fitting]
    split
    · simpa using h
    · next hfit =>
      have := ih (Nat.le_of_not_lt hfit)
      rw [List.map_cons, List.sum_cons]
      omega

theorem contentSize_appendedCodes_le (c : Config) (mode : Mode) (cap : Nat) (text : List Byte) :
    contentSize c mode (appendedCodes c mode cap text) ≤ mode.units (cap - threshold) := by
  have hsum := add_sum_fitting_le (size := codeSize c mode) (acceptedCodes c text)
    (Nat.zero_le (mode.units (cap - threshold)))
  rwa [Nat.zero_add, ← appendedCodes_eq] at hsum

/-- Content within the effective capacity, with END_STOP behind it, takes from 2 bytes to the capacity (R157). -/
theorem bytes_concat_endStop (c : Config) (mode : Mode) {cap : Nat} {ccs : List Code} (hcap : 2 ≤ cap)
    (h : contentSize c mode ccs ≤ mode.units (cap - threshold)) :
    2 ≤ mode.bytes (contentSize c mode (ccs ++ [endStop])) ∧
      mode.bytes (contentSize c mode (ccs ++ [endStop])) ≤ cap := by
  rw [contentSize_concat, codeSize_endStop]
  cases mode <;> simp only [Mode.units, Mode.bytes, threshold] at h ⊢ <;> omega

theorem streamLength_bounds (c : Config) (mode : Mode) {cap : Nat} (text : List Byte) (hcap : 2 ≤ cap) :
    2 ≤ streamLength c mode cap text ∧ streamLength c mode cap text ≤ cap := by
  rw [streamLength_eq]
  exact bytes_concat_endStop c mode hcap (contentSize_appendedCodes_le c mode cap text)

end Sys2Proof.Machine
end

section
/-! SUPPORT. BUF as the content of the codes appended so far, and what one more append makes of it (R146, R153). -/

namespace Sys2Proof.Machine

/-! ### Bytes by their slots -/

/-- A byte is given by its four slots (R22). -/
theorem eq_of_slotOf_eq {v v' : Byte} (h : ∀ j, j < 4 → slotOf v j = slotOf v' j) : v = v' := by
  have hbit : ∀ (w : Byte) (i : Nat), w.getLsbD i = (slotOf w (i / 2)).getLsbD (i % 2) := fun w i => by
    rw [slotOf, BitVec.getLsbD_extractLsb', Nat.div_add_mod, decide_eq_true (Nat.mod_lt i (by decide)), Bool.true_and]
  refine BitVec.eq_of_getLsbD_eq fun i hi => ?_
  rw [hbit, h _ (by omega), ← hbit]

/-- Slot `j` of packed byte `a` is group `4a + j` (R22, R89). -/
theorem slotOf_packedByte (gs : List Sym) (a : Nat) {j : Nat} (hj : j < 4) :
    slotOf (packedByte gs a) j = gs[4 * a + j]?.getD symNul := by
  simp only [packedByte, slotOf_or]
  rw [slotOf_placeGroup _ j hj 0 (by decide), slotOf_placeGroup _ j hj 1 (by decide),
    slotOf_placeGroup _ j hj 2 (by decide), slotOf_placeGroup _ j hj 3 (by decide)]
  interval_cases j <;> simp

/-! ### Writing behind the content -/

/-- Groups deposited behind packed groups extend them (R153). -/
theorem read_orList_behind {m : Memory} {xs : List Sym} {a : Nat} (gs : List Sym)
    (h : m.read a = some (packedByte xs a)) : (m.orList xs.length gs).read a = some (packedByte (xs ++ gs) a) := by
  have hslot : ∀ j, j < 4 → ∃ v, (m.orList xs.length gs).read a = some v ∧
      slotOf v j = slotOf (packedByte (xs ++ gs) a) j := fun j hj => by
    have hdiv : (4 * a + j) / 4 = a := by omega
    have hmod : (4 * a + j) % 4 = j := by omega
    obtain ⟨v, hv, hin, hout⟩ := slot_orList (k := xs.length) (g := 4 * a + j) gs (by rw [hdiv]; exact h)
    rw [hdiv] at hv
    rw [hmod, slotOf_packedByte xs a hj] at hin hout
    refine ⟨v, hv, ?_⟩
    rw [slotOf_packedByte _ a hj]
    rcases Nat.lt_or_ge (4 * a + j) xs.length with hlt | hge
    · rw [hout (.inl hlt), List.getElem?_append_left hlt]
    · rw [List.getElem?_append_right hge]
      rcases Nat.lt_or_ge (4 * a + j - xs.length) gs.length with hn | hn
      · have hdeposit := hin _ (by omega) hn
        rw [List.getElem?_eq_none hge, List.getElem?_eq_getElem hn, Option.map_some, Option.getD_none, symNul,
          BitVec.zero_or] at hdeposit
        rw [Option.some.inj hdeposit, List.getElem?_eq_getElem hn, Option.getD_some]
      · rw [hout (.inr (by omega)), List.getElem?_eq_none hge, List.getElem?_eq_none hn]
  obtain ⟨v, hv, _⟩ := hslot 0 (by decide)
  refine hv.trans (congrArg some (eq_of_slotOf_eq fun j hj => ?_))
  obtain ⟨v', hv', hj'⟩ := hslot j hj
  rw [← hj', Option.some.inj (hv.symm.trans hv')]

/-- Bytes written behind a list of bytes, over zeros, extend it (R146). -/
theorem read_writeList_behind {m : Memory} {xs : List Byte} {a : Nat} (vs : List Byte)
    (h : m.read a = some (xs[a]?.getD 0#8)) : (m.writeList xs.length vs).read a = some ((xs ++ vs)[a]?.getD 0#8) := by
  rcases Nat.lt_or_ge a xs.length with hlt | hge
  · rw [Memory.read_writeList_before _ _ hlt, h, List.getElem?_append_left hlt]
  · rw [List.getElem?_append_right hge]
    rcases Nat.lt_or_ge (a - xs.length) vs.length with hn | hn
    · have hread := m.read_writeList_inside (a := xs.length) vs hn
      rw [Nat.add_sub_cancel' hge] at hread
      rw [hread, List.getElem?_eq_getElem hn, Option.getD_some]
    · rw [Memory.read_writeList_after _ _ (by omega), h, List.getElem?_eq_none hge, List.getElem?_eq_none hn]

/-! ### A buffer that holds codes -/

/-- BUF below the latched capacity holds the content of the codes, and the cursor stands behind it. -/
structure HoldsCodes (s : State) (ccs : List Code) : Prop where
  cursor : s.cursor = contentSize s.cfg s.mode ccs
  bytes : ∀ a, a < s.cap.toNat → s.buf.read a = some (contentByte s.cfg s.mode ccs a)

theorem contentByte_nil (c : Config) (mode : Mode) (a : Nat) : contentByte c mode [] a = 0#8 := by
  cases mode with
  | aligned => rfl
  | compact =>
    simp only [contentByte, packedByte, List.flatMap_nil, List.getElem?_nil, Option.getD_none]
    decide

theorem HoldsCodes.cleared {s : State} {ccs : List Code} (h : HoldsCodes s ccs) : bufCleared s :=
  fun a ha => Option.isSome_of_mem (h.bytes a ha)

/-- A code that fits below a limit within the capacity is appended whole, behind those BUF holds (R147, R155). -/
theorem append_of_fits {cc : Code} {limit : Nat} {s : State} {ccs : List Code} (h : HoldsCodes s ccs)
    (hl : limit ≤ s.cap.toNat) (hfit : s.cursor + codeSize s.cfg s.mode cc ≤ s.mode.units limit) :
    ∃ p k buf, append cc limit s = .ok ({ s with p := p, k := k, buf := buf }, true) ∧
      HoldsCodes { s with p := p, k := k, buf := buf } (ccs ++ [cc]) := by
  have hcleared := h.cleared
  obtain ⟨hcursor, hbytes⟩ := h
  rcases mode_cases s with hm | hm <;>
    simp only [State.cursor, codeSize, contentByte, Mode.units, hm] at hcursor hbytes hfit
  · refine ⟨_, s.k, _, by rw [append_of_aligned _ _ hm, appendAligned_of_fits hfit hl], ⟨?_, fun a ha => ?_⟩⟩
    · simp only [State.cursor, hm, contentSize_concat, hcursor, codeSize]
    · simp only [contentByte, hm, List.flatMap_append, List.flatMap_singleton]
      rw [hcursor, ← length_flatMap_record]
      exact read_writeList_behind _ (hbytes a ha)
  · refine ⟨s.p, _, _, by rw [append_of_compact _ _ hm, appendCompact_of_fits hfit hl hcleared],
      ⟨?_, fun a ha => ?_⟩⟩
    · simp only [State.cursor, hm, contentSize_concat, hcursor, codeSize]
    · simp only [contentByte, hm, List.flatMap_append, List.flatMap_singleton]
      rw [hcursor, ← length_flatMap_run]
      exact read_orList_behind _ (hbytes a ha)

end Sys2Proof.Machine
end

section
/-! SUPPORT. The runs of an accepted ENCODE: the clearing of BUF, the main loop, and the completion (R143 to R161). -/

namespace Sys2Proof.Machine

/-! ### Runs of core steps -/

theorem coreRun_succ {s t : State} (h : coreStep s = .next t) (n : Nat) : coreRun (n + 1) s = coreRun n t := by
  simp only [coreRun, h]

/-- An idle block stays as it is (R256). -/
theorem coreRun_of_idle {s : State} (h : s.eng = .idle) (n : Nat) : coreRun n s = .next s := by
  induction n with
  | zero => rfl
  | succ n ih =>
    have hstep : coreStep s = .next s := by simp only [coreStep, h]
    rw [coreRun_succ hstep, ih]

/-- A run of core steps changes neither TEXT nor any BUF byte at or above the latched capacity (R36, R246). -/
theorem coreRun_frame {n : Nat} {s u : State} (h : coreRun n s = .next u) :
    u.text = s.text ∧ ∀ a, s.cap.toNat ≤ a → u.buf.read a = s.buf.read a := by
  induction n generalizing s with
  | zero => cases h; exact ⟨rfl, fun _ _ => rfl⟩
  | succ n ih =>
    cases hstep : coreStep s <;> simp only [coreRun, hstep] at h
    case fault | refused => cases h
    case next t =>
      have hf := stepFrame_coreStep hstep
      have htext : t.text = s.text := by rw [hf.fields]
      have hcap : t.cap = s.cap := by rw [hf.fields]
      obtain ⟨hutext, hubuf⟩ := ih h
      exact ⟨hutext.trans htext, fun a ha => (hubuf a (hcap ▸ ha)).trans (hf.buf ha)⟩

/-! ### E_TERM and E_FIN -/

/-- An ENCODE that has completed with the content of the codes in BUF (R157, R158). -/
structure Completed (c : Config) (mode : Mode) (cap : Nat) (ccs : List Code) (trunc : Bool) (u : State) : Prop where
  idle : u.busy = false
  done : u.done = true
  err : u.err = false
  trunc : u.trunc = trunc
  result : u.result = BitVec.ofNat 32 (mode.bytes (contentSize c mode ccs))
  bytes : ∀ a, a < cap → u.buf.read a = some (contentByte c mode ccs a)

/-- E_FIN completes with what BUF holds (R157). -/
theorem completed_finStep {s : State} {ccs : List Code} (h : HoldsCodes s ccs)
    (hcap : s.mode.bytes (contentSize s.cfg s.mode ccs) ≤ s.cap.toNat) :
    Completed s.cfg s.mode s.cap.toNat ccs s.halted (finStep s) := by
  have hlen : encodedLength s = s.mode.bytes (contentSize s.cfg s.mode ccs) := by rw [encodedLength_eq, h.cursor]
  obtain ⟨_, hmsb⟩ := result_of_le_cap (hlen.trans_le hcap)
  exact ⟨rfl, rfl, hmsb, rfl, congrArg (BitVec.ofNat 32) hlen, h.bytes⟩

/-- The main loop has appended the codes, below the effective capacity (R147, R155). -/
structure AppendedSoFar (s : State) (ccs : List Code) : Prop where
  capLow : 2 ≤ s.cap.toNat
  holds : HoldsCodes s ccs
  room : s.cursor ≤ s.mode.units (effective s)

/-- Neither the engine state, the text index, the code register nor `s.halted` enters into what has been appended. -/
theorem AppendedSoFar.congr {s t : State} {ccs : List Code} (h : AppendedSoFar s ccs)
    (ht : t = { s with eng := t.eng, i := t.i, cc := t.cc, halted := t.halted }) : AppendedSoFar t ccs := by
  obtain ⟨hcap, ⟨hcursor, hbytes⟩, hroom⟩ := h
  rw [ht]
  exact ⟨hcap, ⟨hcursor, hbytes⟩, hroom⟩

/-- From E_TERM an ENCODE completes in two core steps, with END_STOP behind the codes (R151, R161). -/
theorem coreRun_of_eTerm {s : State} {ccs : List Code} (he : s.eng = .eTerm) (h : AppendedSoFar s ccs) (n : Nat) :
    ∃ u, coreRun (n + 2) s = .next u ∧ Completed s.cfg s.mode s.cap.toNat (ccs ++ [endStop]) s.halted u := by
  obtain ⟨hcap, hholds, hroom⟩ := h
  have hfit : s.cursor + codeSize s.cfg s.mode endStop ≤ s.mode.units s.cap.toNat := by
    rw [codeSize_endStop]
    rcases mode_cases s with hm | hm <;> simp only [hm, Mode.units, effective, threshold] at hroom ⊢ <;> omega
  obtain ⟨p, k, buf, ha, hholds'⟩ := append_of_fits hholds (Nat.le_refl _) hfit
  have hterm : coreStep s = .next { s with p := p, k := k, buf := buf, eng := .eFin } := by
    rw [coreStep_of_eTerm he, termStep, ha, Micro.bind_ok, Micro.toOutcome_ok]
  rw [hholds.cursor] at hroom
  obtain ⟨_, hbytes⟩ := bytes_concat_endStop s.cfg s.mode hcap hroom
  refine ⟨_, ?_, completed_finStep (s := { s with p := p, k := k, buf := buf, eng := .eFin })
    ⟨hholds'.cursor, hholds'.bytes⟩ hbytes⟩
  rw [coreRun_succ hterm, coreRun_succ (coreStep_of_eFin rfl), coreRun_of_idle rfl]

/-! ### The main loop -/

/-- The head of the main loop: `rest` is the text left, and nothing has been truncated (R140). -/
structure LoopHead (s : State) (ccs : List Code) (rest : List Byte) : Prop extends AppendedSoFar s ccs where
  config : s.cfg.wellFormed = true
  running : s.halted = false
  tlen : s.i + rest.length = s.tlen.toNat
  text : ∀ n, n < rest.length → s.text.read (s.i + n) = rest[n]?

/-- At the head of the loop with a byte left: the byte under the index, and the text behind it (R140). -/
theorem LoopHead.scan {s : State} {ccs : List Code} {v : Byte} {rest : List Byte} (h : LoopHead s ccs (v :: rest)) :
    s.i < s.tlen.toNat ∧ s.text.read s.i = some v ∧ s.i + 1 + rest.length = s.tlen.toNat ∧
      ∀ n, n < rest.length → s.text.read (s.i + 1 + n) = rest[n]? := by
  have htlen := h.tlen
  rw [List.length_cons] at htlen
  refine ⟨by omega, by simpa using h.text 0 (by simp), by omega, fun n hn => ?_⟩
  rw [Nat.add_assoc, Nat.add_comm 1 n, h.text (n + 1) (by simpa using hn), List.getElem?_cons_succ]

/-- The codes of the text left that the main loop still appends (R150). -/
def fittingRest (s : State) (rest : List Byte) : List Code :=
  fitting (codeSize s.cfg s.mode) (s.mode.units (effective s)) s.cursor (acceptedCodes s.cfg rest)

theorem acceptedCodes_cons_of_none {c : Config} {v : Byte} (rest : List Byte) (h : codeOf c v = none) :
    acceptedCodes c (v :: rest) = acceptedCodes c rest :=
  List.filterMap_cons_none h

theorem acceptedCodes_cons_of_some {c : Config} {v : Byte} {cc : Code} (rest : List Byte) (h : codeOf c v = some cc) :
    acceptedCodes c (v :: rest) = cc :: acceptedCodes c rest :=
  List.filterMap_cons_some h

/-- A step of the main loop over a code that fits leads to the head of the loop with the code appended (R147, R155). -/
theorem coreStep_scan_of_fits {s : State} {ccs : List Code} {v : Byte} {cc : Code} {rest : List Byte}
    (h : LoopHead s ccs (v :: rest)) (he : s.eng = .eScan) (hv : codeOf s.cfg v = some cc)
    (hfit : s.cursor + codeSize s.cfg s.mode cc ≤ s.mode.units (effective s)) :
    ∃ p k buf t, t = { s with i := s.i + 1, cc := cc, p := p, k := k, buf := buf } ∧
      coreStep s = .next (toScanOrTerm t) ∧ LoopHead t (ccs ++ [cc]) rest ∧
      fittingRest s (v :: rest) = cc :: fittingRest t rest := by
  obtain ⟨hi, hread, htlen, htext⟩ := h.scan
  have happended : AppendedSoFar { s with i := s.i + 1, cc := cc } ccs := h.toAppendedSoFar.congr rfl
  obtain ⟨p, k, buf, ha, hholds⟩ := append_of_fits (limit := effective s) happended.holds (Nat.sub_le _ _) hfit
  have hcursor := hholds.cursor
  rw [contentSize_concat] at hcursor
  have hcursor := hcursor.trans (congrArg (· + codeSize s.cfg s.mode cc) h.holds.cursor.symm)
  have hroom := hcursor.trans_le hfit
  refine ⟨p, k, buf, _, rfl, ?_, ⟨⟨h.capLow, hholds, hroom⟩, h.config, h.running, htlen, htext⟩, ?_⟩
  · rw [coreStep_scan_of_code h.config he ((scanning_iff s).mpr ⟨hi, h.running⟩) hread hv, ha, Micro.bind_ok,
      Micro.toOutcome_ok]
    rfl
  · rw [fittingRest, acceptedCodes_cons_of_some rest hv, fitting, if_neg (Nat.not_lt.mpr hfit), fittingRest, hcursor]
    rfl

/-- From the head of the main loop an ENCODE completes in one step per byte left and two more, with the codes of the
text left that fit, then END_STOP; it is truncated exactly if a code did not fit (R140, R150, R161). -/
theorem coreRun_mainLoop {s : State} {ccs : List Code} {rest : List Byte} (h : LoopHead s ccs rest) :
    ∃ u, coreRun (rest.length + 2) (toScanOrTerm s) = .next u ∧
      Completed s.cfg s.mode s.cap.toNat (ccs ++ fittingRest s rest ++ [endStop])
        (decide ((fittingRest s rest).length < (acceptedCodes s.cfg rest).length)) u := by
  induction rest generalizing s ccs with
  | nil =>
    have hi : ¬s.i < s.tlen.toNat := by rw [← h.tlen]; simp
    rw [toScanOrTerm_of_not_halted h.running, if_neg hi, fittingRest, acceptedCodes, List.filterMap_nil, fitting,
      List.append_nil]
    obtain ⟨u, hrun, hdone⟩ := coreRun_of_eTerm (s := { s with eng := .eTerm }) rfl (h.toAppendedSoFar.congr rfl) 0
    exact ⟨u, hrun, by simpa [h.running] using hdone⟩
  | cons v rest ih =>
    obtain ⟨hi, hread, htlen, htext⟩ := h.scan
    rw [toScanOrTerm_of_not_halted h.running, if_pos hi]
    have h : LoopHead { s with eng := .eScan } ccs (v :: rest) :=
      { h with toAppendedSoFar := h.toAppendedSoFar.congr rfl }
    have hs := (scanning_iff { s with eng := .eScan }).mpr ⟨hi, h.running⟩
    rw [List.length_cons, Nat.add_right_comm]
    cases hv : codeOf s.cfg v with
    | none =>
      rw [coreRun_succ (coreStep_scan_of_ignored h.config rfl hs hread hv), fittingRest,
        acceptedCodes_cons_of_none rest hv]
      exact ih (s := { s with eng := .eScan, i := s.i + 1 })
        { h with toAppendedSoFar := h.toAppendedSoFar.congr rfl, tlen := htlen, text := htext }
    | some cc =>
      rw [acceptedCodes_cons_of_some rest hv]
      rcases Nat.lt_or_ge (s.mode.units (effective s)) (s.cursor + codeSize s.cfg s.mode cc) with hover | hfit
      · have hrest : fittingRest s (v :: rest) = [] := by
          rw [fittingRest, acceptedCodes_cons_of_some rest hv, fitting, if_pos hover]
        have hstep := coreStep_scan_of_not_fits (s := { s with eng := .eScan }) rfl hs hread
          ((resolve_eq_codeOf h.config v).trans (congrArg _ hv)) hover
        obtain ⟨u, hrun, hdone⟩ := coreRun_of_eTerm
          (s := { s with i := s.i + 1, cc := cc, halted := true, eng := .eTerm }) rfl (h.toAppendedSoFar.congr rfl)
          rest.length
        exact ⟨u, (coreRun_succ hstep _).trans hrun, by simpa [hrest] using hdone⟩
      · obtain ⟨p, k, buf, t, rfl, hstep, hhead, hrest⟩ := coreStep_scan_of_fits h rfl hv hfit
        change fittingRest s (v :: rest) = _ at hrest
        obtain ⟨u, hrun, hdone⟩ := ih hhead
        exact ⟨u, (coreRun_succ hstep _).trans hrun, by simpa [hrest] using hdone⟩

end Sys2Proof.Machine
end

section
/-! SUPPORT. ENCODE from its issue to its completion, in either mode (R140 to R161). -/

namespace Sys2Proof.Machine

/-! ### E_CLEAR -/

/-- E_CLEAR zeroes the rest of the capacity, one byte per core step, and reaches the main loop's head (R143, R144). -/
theorem coreRun_of_eClear {n : Nat} {s : State} (he : s.eng = .eClear) (hj : s.j + (n + 1) = s.cap.toNat)
    (hz : ∀ a, a < s.j → s.buf.read a = some 0#8) :
    ∃ buf, (∀ a, a < s.cap.toNat → buf.read a = some 0#8) ∧
      ∀ m, coreRun (n + 1 + m) s = coreRun m (toScanOrTerm (resetCursors { s with j := 0, buf := buf })) := by
  have hz' := read_write_cleared hz
  induction n generalizing s with
  | zero =>
    refine ⟨_, fun a ha => hz' a (by omega), fun m => ?_⟩
    rw [Nat.add_comm, coreRun_succ (coreStep_clear_of_last he hj)]
    rfl
  | succ n ih =>
    have hstep := coreStep_clear_of_more he (by omega)
    obtain ⟨buf, hbuf, hrun⟩ := ih (s := { writeBuf s.j 0#8 s with j := s.j + 1 }) he
      (by simp only [writeBuf_cap]; omega) hz' (read_write_cleared hz')
    refine ⟨buf, hbuf, fun m => ?_⟩
    rw [Nat.add_right_comm, coreRun_succ hstep, hrun]
    rfl

/-- The head of the main loop after E_CLEAR: no code appended, the whole text left (R144). -/
theorem loopHead_of_cleared {s : State} {text : List Byte} (hc : s.cfg.wellFormed = true) (hcap : 2 ≤ s.cap.toNat)
    (htlen : s.tlen.toNat = text.length) (htext : holdsText s text)
    (hz : ∀ a, a < s.cap.toNat → s.buf.read a = some 0#8) : LoopHead (resetCursors s) [] text := by
  have hcursor : (resetCursors s).cursor = 0 := by cases hm : s.mode <;> simp [State.cursor, hm]
  have hroom : (resetCursors s).cursor ≤ s.mode.units (effective s) := by rw [hcursor]; exact Nat.zero_le _
  refine ⟨⟨hcap, ⟨hcursor, fun a ha => ?_⟩, hroom⟩, hc, rfl, ?_, fun n hn => ?_⟩
  · rw [contentByte_nil]
    exact hz a ha
  · rw [resetCursors_i, Nat.zero_add, resetCursors_tlen, htlen]
  · rw [resetCursors_i, Nat.zero_add]
    exact htext n hn

/-- The codes the main loop appends from its start are those of the stream's description (R90, R150). -/
theorem fittingRest_of_start {s : State} {text : List Byte} (h : LoopHead s [] text) :
    fittingRest s text = appendedCodes s.cfg s.mode s.cap.toNat text := by
  have hcursor : s.cursor = 0 := h.holds.cursor
  rw [appendedCodes_eq, fittingRest, hcursor]
  rfl

/-- From the start of E_CLEAR an ENCODE completes in `cap + tlen + 2` core steps with the stream's codes (R161). -/
theorem coreRun_of_accepted {s : State} {text : List Byte} (he : s.eng = .eClear) (hj : s.j = 0)
    (hc : s.cfg.wellFormed = true) (hcap : 2 ≤ s.cap.toNat) (htlen : s.tlen.toNat = text.length)
    (htext : holdsText s text) :
    ∃ u, coreRun (s.cap.toNat + s.tlen.toNat + 2) s = .next u ∧
      Completed s.cfg s.mode s.cap.toNat (streamCodes s.cfg s.mode s.cap.toNat text)
        (truncated s.cfg s.mode s.cap.toNat text) u := by
  obtain ⟨n, hn⟩ := Nat.exists_eq_add_of_lt hcap
  obtain ⟨buf, hbuf, hclear⟩ := coreRun_of_eClear (n := n + 1) he (by omega) fun a ha => by omega
  have hhead := loopHead_of_cleared (s := { s with j := 0, buf := buf }) hc hcap htlen htext hbuf
  obtain ⟨u, hrun, hdone⟩ := coreRun_mainLoop hhead
  refine ⟨u, ?_, ?_⟩
  · rw [← hrun, ← hclear, htlen, hn]
    congr 1
    omega
  · rw [fittingRest_of_start hhead] at hdone
    exact hdone

/-! ### From the issue to the completion -/

/-- The state of an ENCODE accepted from an idle state (R241). -/
def acceptedEncode (mode : Mode) (s : State) : State :=
  { latch (encodeInstr mode).op (clearStatus s) with mode := mode, eng := .eClear, j := 0 }

/-- An ENCODE of a ready block is accepted (R141, R241). -/
theorem exec_encode_of_ready {s : State} {text : List Byte} (h : ReadyToEncode s text) (mode : Mode) :
    exec (encodeInstr mode) s = .next (acceptedEncode mode s) := by
  rw [exec_encode_of_idle mode h.idle, startEncode_of_legal mode h.capLow h.capHigh h.tlenHigh]
  rfl

/-- What an ENCODE of a text leaves: it has completed with the stream's codes in BUF, and BUF at and above the capacity
and TEXT are as they were (R157, R158, R160). -/
structure EncodeOutcome (s : State) (mode : Mode) (text : List Byte) (u : State) : Prop extends
    Completed s.cfg mode s.capacity.toNat (streamCodes s.cfg mode s.capacity.toNat text)
      (truncated s.cfg mode s.capacity.toNat text) u where
  above : ∀ a, s.capacity.toNat ≤ a → u.buf.read a = s.buf.read a
  textKept : ∀ a, u.text.read a = s.text.read a

theorem encode_completes {s : State} {text : List Byte} (h : ReadyToEncode s text) (mode : Mode) :
    ∃ u, coreRun (encodeSteps s) (acceptedEncode mode s) = .next u ∧ EncodeOutcome s mode text u := by
  obtain ⟨u, hrun, hdone⟩ :=
    coreRun_of_accepted (s := acceptedEncode mode s) rfl rfl h.config h.capLow h.tlen h.text
  obtain ⟨htext, hbuf⟩ := coreRun_frame hrun
  exact ⟨u, hrun, hdone, hbuf, fun a => by rw [htext]; rfl⟩

/-- A run of `encodeSteps` from the issue of an ENCODE leaves its outcome. -/
theorem encodeOutcome_of_run {s t u : State} {text : List Byte} {mode : Mode} (h : ReadyToEncode s text)
    (ht : exec (encodeInstr mode) s = .next t) (hu : coreRun (encodeSteps s) t = .next u) :
    EncodeOutcome s mode text u := by
  obtain ⟨u', hu', hout⟩ := encode_completes h mode
  cases (exec_encode_of_ready h mode).symm.trans ht
  cases hu'.symm.trans hu
  exact hout

theorem EncodeOutcome.result_eq {s u : State} {mode : Mode} {text : List Byte} (h : EncodeOutcome s mode text u) :
    u.result = BitVec.ofNat 32 (streamLength s.cfg mode s.capacity.toNat text) := by
  rw [h.result, streamLength_eq]

/-- RESULT as a number is the stream's length, from 2 to the capacity (R157). -/
theorem EncodeOutcome.toNat_result {s u : State} {mode : Mode} {text : List Byte} (h : EncodeOutcome s mode text u)
    (hcap : 2 ≤ s.capacity.toNat) :
    u.result.toNat = streamLength s.cfg mode s.capacity.toNat text ∧ 2 ≤ u.result.toNat ∧
      u.result.toNat ≤ s.capacity.toNat := by
  obtain ⟨hlow, hhigh⟩ := streamLength_bounds s.cfg mode text hcap
  obtain ⟨hresult, _⟩ := result_of_le_cap hhigh
  rw [h.result_eq, hresult]
  exact ⟨rfl, hlow, hhigh⟩

theorem EncodeOutcome.read_buf {s u : State} {mode : Mode} {text : List Byte} (h : EncodeOutcome s mode text u)
    {a : Nat} (ha : a < s.capacity.toNat) : u.buf.read a = some (streamByte s.cfg mode s.capacity.toNat text a) := by
  rw [h.bytes a ha, streamByte_eq]

/-- The end-to-end statement, in either mode. -/
theorem encode_produces_stream {s : State} {text : List Byte} (h : ReadyToEncode s text) (mode : Mode) :
    ∃ t u, exec (encodeInstr mode) s = .next t ∧ t.busy = true ∧ coreRun (encodeSteps s) t = .next u ∧
      u.busy = false ∧ u.done = true ∧ u.err = false ∧
      u.trunc = truncated s.cfg mode s.capacity.toNat text ∧
      u.result = BitVec.ofNat 32 (streamLength s.cfg mode s.capacity.toNat text) ∧
      2 ≤ u.result.toNat ∧ u.result.toNat ≤ s.capacity.toNat ∧
      (∀ a, a < s.capacity.toNat → u.buf.read a = some (streamByte s.cfg mode s.capacity.toNat text a)) ∧
      (∀ a, s.capacity.toNat ≤ a → u.buf.read a = s.buf.read a) ∧
      (∀ a, u.text.read a = s.text.read a) := by
  obtain ⟨u, hrun, hout⟩ := encode_completes h mode
  obtain ⟨_, hlow, hhigh⟩ := hout.toNat_result h.capLow
  exact ⟨_, u, exec_encode_of_ready h mode, rfl, hrun, hout.idle, hout.done, hout.err, hout.trunc, hout.result_eq,
    hlow, hhigh, fun _ => hout.read_buf, hout.above, hout.textKept⟩

/-- Settles O31: E_CLEAR, then the main loop with BUF as the records of the codes so far, then END_STOP. -/
theorem encodeAlignedProducesTheStream : Obligations.EncodeAlignedProducesTheStream := fun _ _ h =>
  encode_produces_stream h .aligned

/-- Settles O32: the same run with BUF as the packed groups of the codes so far. -/
theorem encodeCompactProducesTheStream : Obligations.EncodeCompactProducesTheStream := fun _ _ h =>
  encode_produces_stream h .compact

/-! ### IGNORED bytes -/

/-- The accepted codes are those of the bytes that are not IGNORED (R133). -/
theorem acceptedCodes_filter (c : Config) (text : List Byte) :
    acceptedCodes c (text.filter fun v => classify v != .ignored) = acceptedCodes c text := by
  induction text with
  | nil => rfl
  | cons v text ih =>
    by_cases hv : classify v = .ignored
    · rw [List.filter_cons_of_neg (by simp [hv]), ih, acceptedCodes_cons_of_none text (codeOf_of_ignored hv)]
    · rw [List.filter_cons_of_pos (by simp [hv])]
      cases hcode : codeOf c v with
      | none => rw [acceptedCodes_cons_of_none _ hcode, acceptedCodes_cons_of_none _ hcode, ih]
      | some cc => rw [acceptedCodes_cons_of_some _ hcode, acceptedCodes_cons_of_some _ hcode, ih]

/-- Settles O33: the outcome of an ENCODE is a function of the accepted codes, and IGNORED bytes have none. -/
theorem ignoredBytesAddNothing : Obligations.IgnoredBytesAddNothing := by
  intro s s' text text' i t t' u u' h h' hs hfilter hi ht hu ht' hu'
  obtain ⟨mode, rfl⟩ := exists_mode_of_encode hi
  have hout := encodeOutcome_of_run h ht hu
  have hout' := encodeOutcome_of_run h' ht' hu'
  have hcfg : s'.cfg = s.cfg := by rw [hs]
  have hcap : s'.capacity = s.capacity := by rw [hs]
  have hbuf : s'.buf = s.buf := by rw [hs]
  have hcodes : acceptedCodes s.cfg text' = acceptedCodes s.cfg text := by
    rw [← acceptedCodes_filter, ← hfilter, acceptedCodes_filter]
  have hstream : streamCodes s.cfg mode s.capacity.toNat text' = streamCodes s.cfg mode s.capacity.toNat text := by
    rw [streamCodes, streamCodes, appendedCodes_eq, appendedCodes_eq, hcodes]
  have htrunc : truncated s.cfg mode s.capacity.toNat text' = truncated s.cfg mode s.capacity.toNat text := by
    rw [truncated, truncated, appendedCodes_eq, appendedCodes_eq, hcodes]
  refine ⟨?_, ?_, fun a => ?_⟩
  · rw [hout.result, hout'.result, hcfg, hcap, hstream]
  · rw [hout.trunc, hout'.trunc, hcfg, hcap, htrunc]
  · rcases Nat.lt_or_ge a s.capacity.toNat with ha | ha
    · rw [hout.bytes a ha, hout'.bytes a (hcap ▸ ha), hcfg, hcap, hstream]
    · rw [hout.above a ha, hout'.above a (hcap ▸ ha), hbuf]

end Sys2Proof.Machine
end

section
/-! SUPPORT. Density: under the low separator test the run of a code fits the slots of its record (R152, R163 (b)). -/

namespace Sys2Proof.Machine

/-! ### Truncation -/

theorem fitting_isPrefix (size : Code → Nat) (limit used : Nat) (ccs : List Code) :
    fitting size limit used ccs <+: ccs := by
  induction ccs generalizing used with
  | nil => exact List.nil_prefix
  | cons cc ccs ih =>
    rw [fitting]
    split
    · exact List.nil_prefix
    · exact (List.prefix_cons_inj cc).mpr (ih _)

/-- Codes that end at or below the limit all fit (R150). -/
theorem fitting_eq_self {size : Code → Nat} {limit used : Nat} {ccs : List Code}
    (h : used + (ccs.map size).sum ≤ limit) : fitting size limit used ccs = ccs := by
  induction ccs generalizing used with
  | nil => rfl
  | cons cc ccs ih =>
    rw [List.map_cons, List.sum_cons] at h
    rw [fitting, if_neg (by omega), ih (by omega)]

/-- An encode is untruncated exactly when the main loop appends every accepted code (R150). -/
theorem truncated_eq_false_iff (c : Config) (mode : Mode) (cap : Nat) (text : List Byte) :
    truncated c mode cap text = false ↔ appendedCodes c mode cap text = acceptedCodes c text := by
  have hpre := fitting_isPrefix (codeSize c mode) (mode.units (cap - threshold)) 0 (acceptedCodes c text)
  rw [← appendedCodes_eq] at hpre
  rw [truncated, decide_eq_false_iff_not]
  exact ⟨fun h => hpre.eq_of_length (Nat.le_antisymm hpre.length_le (Nat.le_of_not_lt h)), fun h => by simp [h]⟩

/-- That is when the accepted codes fit the effective capacity (R147, R155). -/
theorem truncated_eq_false_iff_fits (c : Config) (mode : Mode) (cap : Nat) (text : List Byte) :
    truncated c mode cap text = false ↔
      contentSize c mode (acceptedCodes c text) ≤ mode.units (cap - threshold) := by
  rw [truncated_eq_false_iff]
  refine ⟨fun h => h ▸ contentSize_appendedCodes_le c mode cap text, fun h => ?_⟩
  rw [appendedCodes_eq]
  exact fitting_eq_self (by rwa [Nat.zero_add])

theorem streamCodes_of_untruncated {c : Config} {mode : Mode} {cap : Nat} {text : List Byte}
    (h : truncated c mode cap text = false) : streamCodes c mode cap text = acceptedCodes c text ++ [endStop] := by
  rw [streamCodes, (truncated_eq_false_iff c mode cap text).mp h]

/-! ### One code in either layout -/

theorem sepCompact_of_low {c : Config} (h : c.compactSepTest = .low) (cc : Code) : sepCompact c cc = sepAligned cc := by
  simp [sepCompact, sepAligned, h]

/-- A code has a high byte exactly when it has more than four groups (R16, R146). -/
theorem high_byte_iff (cc : Code) : 0xFF#16 < cc ↔ 4 < ngroups cc := by
  rw [← Nat.not_le, ngroups_le_iff, ushiftRight_groups_eq_zero_iff, Nat.not_lt]
  rfl

theorem ngroups_le_eight (cc : Code) : ngroups cc ≤ 8 := by
  rw [ngroups_le_iff, ushiftRight_groups_eq_zero_iff]
  exact cc.isLt

theorem length_record (cc : Code) :
    (record cc).length = (if 4 < ngroups cc then 2 else 1) + if sepAligned cc then 1 else 0 := by
  rw [record, if_congr (high_byte_iff cc) rfl rfl]
  split_ifs <;> rfl

theorem length_run {c : Config} (h : c.compactSepTest = .low) (cc : Code) :
    (run c cc).length = ngroups cc + if sepAligned cc then 1 else 0 := by
  rw [run, sepCompact_of_low h]
  split_ifs <;> simp

/-- One to four groups take a byte, five to eight take two, and the separator a slot against a byte. -/
theorem length_run_le_four_mul_record {c : Config} (h : c.compactSepTest = .low) (cc : Code) :
    (run c cc).length ≤ 4 * (record cc).length := by
  have h8 := ngroups_le_eight cc
  rw [length_run h, length_record]
  split_ifs <;> omega

theorem contentSize_compact_le {c : Config} (h : c.compactSepTest = .low) (ccs : List Code) :
    contentSize c .compact ccs ≤ 4 * contentSize c .aligned ccs := by
  rw [contentSize, contentSize, ← List.sum_map_mul_left]
  exact List.sum_le_sum fun cc _ => length_run_le_four_mul_record h cc

/-- Settles O35: the runs fit wherever the records do, and the packed stream is not longer. -/
theorem compactIsNotLongerThanAligned : Obligations.CompactIsNotLongerThanAligned := by
  intro s text ta ua tc uc h hcfg hta hua htc huc htrunc
  have hA := encodeOutcome_of_run (mode := .aligned) h hta hua
  have hC := encodeOutcome_of_run (mode := .compact) h htc huc
  have hlow : s.cfg.compactSepTest = .low := by rw [hcfg]; rfl
  rw [hA.trunc] at htrunc
  have hfits : truncated s.cfg .compact s.capacity.toNat text = false := by
    rw [truncated_eq_false_iff_fits] at htrunc ⊢
    exact (contentSize_compact_le hlow _).trans (Nat.mul_le_mul_left 4 htrunc)
  refine ⟨hC.trunc.trans hfits, ?_⟩
  obtain ⟨hlenA, _, _⟩ := hA.toNat_result h.capLow
  obtain ⟨hlenC, _, _⟩ := hC.toNat_result h.capLow
  have hsize := contentSize_compact_le hlow (acceptedCodes s.cfg text ++ [endStop])
  rw [hlenA, hlenC, streamLength_eq, streamLength_eq, streamCodes_of_untruncated htrunc,
    streamCodes_of_untruncated hfits, Mode.bytes, Mode.bytes]
  omega

end Sys2Proof.Machine
end

section
/-! SUPPORT. The symbols of the bytes an ENCODE leaves, and the events they dispatch to (R159, R163 (c), R190, R200). -/

namespace Sys2Proof.Machine

/-! ### The symbols of a record -/

/-- The four slots of a code's low or high byte are its groups 0 to 3 or 4 to 7 (R16, R22). -/
theorem slotOf_extract_byte (cc : Code) (b : Nat) {j : Nat} (hj : j < 4) :
    slotOf (cc.extractLsb' (8 * b) 8) j = groupOf cc (4 * b + j) := by
  refine BitVec.eq_of_getLsbD_eq fun i hi => ?_
  rw [slotOf, groupOf, BitVec.getLsbD_extractLsb', BitVec.getLsbD_extractLsb', BitVec.getLsbD_extractLsb',
    decide_eq_true (show 2 * j + i < 8 by omega), Bool.true_and]
  congr 2
  omega

theorem slotsOf_extract_byte (cc : Code) (b : Nat) :
    slotsOf (cc.extractLsb' (8 * b) 8) =
      [groupOf cc (4 * b), groupOf cc (4 * b + 1), groupOf cc (4 * b + 2), groupOf cc (4 * b + 3)] := by
  simp [slotsOf, slotOf_extract_byte]

/-- The symbols of a record: the groups of its bytes, then an END_CHAR in a byte of its own if it has a separator. -/
theorem symbols_record (cc : Code) :
    (record cc).flatMap slotsOf =
      (List.range (if 4 < ngroups cc then 8 else 4)).map (groupOf cc) ++
        if sepAligned cc then [symEndChar, symNul, symNul, symNul] else [] := by
  have hlow := slotsOf_extract_byte cc 0
  have hhigh := slotsOf_extract_byte cc 1
  have hsep : slotsOf 0x03#8 = [symEndChar, symNul, symNul, symNul] := by decide
  rw [record, if_congr (high_byte_iff cc) rfl rfl]
  split_ifs <;> simp [hlow, hhigh, hsep, List.range_succ]

/-! ### Symbols without NUL -/

/-- The symbols the walk acts on: a NUL is skipped (R196). -/
def visible (gs : List Sym) : List Sym := gs.filter (· != symNul)

theorem visible_append (gs gs' : List Sym) : visible (gs ++ gs') = visible gs ++ visible gs' := List.filter_append ..

theorem visible_replicate_nul (r : Nat) : visible (List.replicate r symNul) = [] := by simp [visible]

/-- NULs cause no event and break no silence (R196). -/
theorem eventsFrom_visible (c : Config) (base : Byte) (n : Nat) (gs : List Sym) :
    eventsFrom c base n (visible gs) = eventsFrom c base n gs := by
  induction gs generalizing n with
  | nil => rfl
  | cons sym gs ih =>
    by_cases hnul : sym = symNul
    · have hend : ¬sym = symEndChar := by rw [hnul]; decide
      rw [visible, List.filter_cons_of_neg (by simp [hnul]), ← visible, ih, eventsFrom, if_neg hend, if_pos hnul]
    · rw [visible, List.filter_cons_of_pos (by simpa using hnul), ← visible, eventsFrom, eventsFrom, ih, ih, ih]

/-- The groups from the group count on are NUL (R16). -/
theorem visible_groups {cc : Code} {m : Nat} (h : ngroups cc ≤ m) :
    visible ((List.range m).map (groupOf cc)) = visible ((List.range (ngroups cc)).map (groupOf cc)) := by
  obtain ⟨d, rfl⟩ := Nat.exists_eq_add_of_le h
  have hnul : visible ((List.range d).map (groupOf cc ∘ (ngroups cc + ·))) = [] := by
    refine List.filter_eq_nil_iff.mpr fun sym hsym => ?_
    obtain ⟨g, _, rfl⟩ := List.mem_map.mp hsym
    simpa using (ngroups_le_iff_groupOf cc _).mp (Nat.le_refl _) _ (Nat.le_add_right _ g)
  rw [List.range_add, List.map_append, visible_append, List.map_map, hnul, List.append_nil]

/-- Under the low separator test a record and a run of one code show the same symbols (R88, R89, R152). -/
theorem visible_record_eq_run {c : Config} (h : c.compactSepTest = .low) (cc : Code) :
    visible ((record cc).flatMap slotsOf) = visible (run c cc) := by
  have hgroups : ngroups cc ≤ if 4 < ngroups cc then 8 else 4 := by
    have := ngroups_le_eight cc
    split <;> omega
  have hsep : visible [symEndChar, symNul, symNul, symNul] = visible [symEndChar] := by decide
  rw [symbols_record, run, sepCompact_of_low h, visible_append, visible_append, visible_groups hgroups]
  split
  · rw [hsep]
  · rfl

theorem visible_flatMap_record {c : Config} (h : c.compactSepTest = .low) (ccs : List Code) :
    visible ((ccs.flatMap record).flatMap slotsOf) = visible (ccs.flatMap (run c)) := by
  rw [List.flatMap_assoc, visible, List.filter_flatMap, visible, List.filter_flatMap]
  exact List.flatMap_congr fun cc _ => visible_record_eq_run h cc

/-! ### The symbols an ENCODE leaves -/

/-- The slots of `n` packed bytes are the groups, then NULs (R89). -/
theorem symbols_packed {gs : List Sym} {n : Nat} (h : gs.length ≤ 4 * n) :
    ((List.range n).map (packedByte gs)).flatMap slotsOf = gs ++ List.replicate (4 * n - gs.length) symNul := by
  have hslots : ((List.range n).map (packedByte gs)).flatMap slotsOf =
      (List.range (4 * n)).map fun g => gs[g]?.getD symNul := by
    clear h
    induction n with
    | zero => rfl
    | succ n ih =>
      rw [List.range_succ, List.map_append, List.flatMap_append, ih, Nat.mul_succ, List.range_add, List.map_append]
      simp [slotsOf, slotOf_packedByte, List.range_succ]
  rw [hslots]
  refine List.ext_getElem (by simp; omega) fun g hg _ => ?_
  rcases Nat.lt_or_ge g gs.length with hlt | hge
  · simp [hlt]
  · simp [List.getElem_append_right hge, List.getElem?_eq_none hge]

/-- BUF[0 .. RESULT-1] after an ENCODE is the stream (R157, R158). -/
theorem EncodeOutcome.bytes_eq {s u : State} {mode : Mode} {text bytes : List Byte} (h : EncodeOutcome s mode text u)
    (hcap : 2 ≤ s.capacity.toNat) (hlen : bytes.length = u.result.toNat) (hbytes : holdsBuf u bytes) :
    bytes = (List.range (streamLength s.cfg mode s.capacity.toNat text)).map
      (streamByte s.cfg mode s.capacity.toNat text) := by
  obtain ⟨hresult, _, hhigh⟩ := h.toNat_result hcap
  refine List.ext_getElem (by simp [hlen, hresult]) fun a ha _ => ?_
  have hread := hbytes a ha
  rw [h.read_buf (by omega), List.getElem?_eq_getElem ha] at hread
  simpa using (Option.some.inj hread).symm

/-- The symbols of an Aligned result: those of the records (R88). -/
theorem symbols_of_aligned {s u : State} {text bytes : List Byte} (h : EncodeOutcome s .aligned text u)
    (hcap : 2 ≤ s.capacity.toNat) (hlen : bytes.length = u.result.toNat) (hbytes : holdsBuf u bytes) :
    bytes.flatMap slotsOf = ((streamCodes s.cfg .aligned s.capacity.toNat text).flatMap record).flatMap slotsOf := by
  rw [h.bytes_eq hcap hlen hbytes, ← alignedStream_eq]
  congr 1
  refine List.ext_getElem (by simp [streamLength]) fun a _ ha => ?_
  simp [streamByte, ha]

/-- The symbols of a Compact result: the groups of the runs, and at most 3 NULs (R89, R158). -/
theorem symbols_of_compact {s u : State} {text bytes : List Byte} (h : EncodeOutcome s .compact text u)
    (hcap : 2 ≤ s.capacity.toNat) (hlen : bytes.length = u.result.toNat) (hbytes : holdsBuf u bytes) :
    ∃ r, r ≤ 3 ∧ bytes.flatMap slotsOf =
      (streamCodes s.cfg .compact s.capacity.toNat text).flatMap (run s.cfg) ++ List.replicate r symNul := by
  rw [h.bytes_eq hcap hlen hbytes, ← compactStream_eq]
  exact ⟨_, by simp only [streamLength]; omega, symbols_packed (by simp only [streamLength]; omega)⟩

/-- Settles O36: without truncation both streams hold the same codes, which show the same symbols in either layout. -/
theorem bothLayoutsDispatchAlike : Obligations.BothLayoutsDispatchAlike := by
  intro s text ta ua tc uc bytesA bytesC base h hcfg hta hua htc huc htruncA htruncC hlenA hbytesA hlenC hbytesC
  have hA := encodeOutcome_of_run (mode := .aligned) h hta hua
  have hC := encodeOutcome_of_run (mode := .compact) h htc huc
  have hlow : s.cfg.compactSepTest = .low := by rw [hcfg]; rfl
  have hsymA := symbols_of_aligned hA h.capLow hlenA hbytesA
  obtain ⟨r, _, hsymC⟩ := symbols_of_compact hC h.capLow hlenC hbytesC
  rw [streamCodes_of_untruncated (hA.trunc.symm.trans htruncA)] at hsymA
  rw [streamCodes_of_untruncated (hC.trunc.symm.trans htruncC)] at hsymC
  have hvisible : visible (bytesA.flatMap slotsOf) = visible (bytesC.flatMap slotsOf) := by
    rw [hsymA, hsymC, visible_flatMap_record hlow, visible_append, visible_replicate_nul, List.append_nil]
  rw [eventsOf, eventsOf, ← eventsFrom_visible, hvisible, eventsFrom_visible]

/-! ### The end of a stream -/

theorem eventsFrom_replicate_endChar (c : Config) (base : Byte) (n m : Nat) (gs : List Sym) :
    eventsFrom c base n (List.replicate m symEndChar ++ gs) = eventsFrom c base (n + m) gs := by
  induction m generalizing n with
  | zero => rfl
  | succ m ih => rw [List.replicate_succ, List.cons_append, eventsFrom, if_pos rfl, ih, Nat.add_right_comm]; rfl

/-- Eight END_CHARs and NULs at the end make the last event a Silence of class STOP, whatever stands before (R200). -/
theorem getLast?_eventsFrom_stop (c : Config) (base : Byte) (n r : Nat) (front : List Sym) :
    (eventsFrom c base n (front ++ (List.replicate 8 symEndChar ++ List.replicate r symNul))).getLast? =
      some (silenceEvent c base .stop) := by
  induction front generalizing n with
  | nil =>
    rw [List.nil_append, eventsFrom_replicate_endChar, ← eventsFrom_visible, visible_replicate_nul, eventsFrom,
      flushOf, if_neg (by omega), spaceClass_of_eight_le (by omega)]
    rfl
  | cons sym front ih =>
    rw [List.cons_append, eventsFrom]
    split
    · exact ih _
    · split
      · exact ih _
      · rw [List.getLast?_append, ih, Option.some_or]

/-- Settles O37: END_STOP's record or run is last, with at most the NULs of a packed last byte behind it. -/
theorem encodedStreamEndsWithStop : Obligations.EncodedStreamEndsWithStop := by
  intro s text i t u bytes base h hi ht hu hlen hbytes
  obtain ⟨mode, rfl⟩ := exists_mode_of_encode hi
  have hout := encodeOutcome_of_run h ht hu
  have hsymbols : ∃ front r, r ≤ 3 ∧
      bytes.flatMap slotsOf = front ++ List.replicate 8 symEndChar ++ List.replicate r symNul := by
    cases mode with
    | aligned =>
      have hstop : (record endStop).flatMap slotsOf = List.replicate 8 symEndChar := by decide
      rw [symbols_of_aligned hout h.capLow hlen hbytes, streamCodes, List.flatMap_append, List.flatMap_append,
        List.flatMap_singleton, hstop]
      exact ⟨_, 0, Nat.zero_le 3, (List.append_nil _).symm⟩
    | compact =>
      obtain ⟨r, hr, hsym⟩ := symbols_of_compact hout h.capLow hlen hbytes
      rw [streamCodes, List.flatMap_append, List.flatMap_singleton, run_endStop] at hsym
      exact ⟨_, r, hr, hsym⟩
  refine ⟨hsymbols, ?_⟩
  obtain ⟨front, r, _, hsym⟩ := hsymbols
  rw [eventsOf, hsym, List.append_assoc]
  exact getLast?_eventsFrom_stop _ _ _ _ _

end Sys2Proof.Machine
end

section
/-! SUPPORT. The events of a symbol sequence (R190, R195, R206), the spacing classes (R198), and a DISPATCH out of range
(R191). -/

namespace Sys2Proof.Machine

/-! ### Spacing classes -/

/-- Settles O38: the classes by definition, the saturation at 15 inside the class STOP. -/
theorem spacingClassOfEveryCount : Obligations.SpacingClassOfEveryCount := fun n =>
  ⟨rfl, spaceClass_min n, toNat_countEndChar, rfl, rfl, rfl, rfl, rfl⟩

/-! ### Rejection -/

/-- With BUSY = 0 a DISPATCH runs its operand check on the latched state (R241). -/
theorem exec_dispatch_of_idle {s : State} (hb : s.busy = false) :
    exec .dispatch s = .next (startDispatch (latch 2#2 (clearStatus s))) :=
  issue_of_idle 2#2 startDispatch hb

/-- Settles O11: the operand check fails on the latched length, and E_RANGE is negative. -/
theorem dispatchOutOfRangeIsRejected : Obligations.DispatchOutOfRangeIsRejected := by
  intro s hc hb hrange
  obtain ⟨_, herr, _, _⟩ := errors_of_wellFormed hc
  rw [exec_dispatch_of_idle hb, startDispatch_of_range (s := latch 2#2 (clearStatus s)) hrange]
  simp [finish, latch, clearStatus, flagsBase, herr, (busy_eq_false_iff s).mp hb]

/-! ### The events of a symbol sequence -/

theorem eventsFrom_endChar (c : Config) (base : Byte) (n : Nat) (syms : List Sym) :
    eventsFrom c base n (symEndChar :: syms) = eventsFrom c base (n + 1) syms := rfl

theorem eventsFrom_nul (c : Config) (base : Byte) (n : Nat) (syms : List Sym) :
    eventsFrom c base n (symNul :: syms) = eventsFrom c base n syms := rfl

theorem eventsFrom_sound (c : Config) (base : Byte) (n : Nat) {sym : Sym} (syms : List Sym) (hend : sym ≠ symEndChar)
    (hnul : sym ≠ symNul) :
    eventsFrom c base n (sym :: syms) =
      flushOf c base n ++ soundEvent base sym :: silenceEvent c base .intra :: eventsFrom c base 0 syms := by
  rw [eventsFrom, if_neg hend, if_neg hnul, List.append_assoc]
  rfl

/-- A silence count saturated at 15 leads to the same events (R195). -/
theorem eventsFrom_min (c : Config) (base : Byte) (n : Nat) (syms : List Sym) :
    eventsFrom c base (min n 15) syms = eventsFrom c base n syms := by
  induction syms generalizing n with
  | nil => exact flushOf_min c base n
  | cons sym syms ih =>
    by_cases hend : sym = symEndChar
    · rw [hend, eventsFrom_endChar, eventsFrom_endChar, ← ih (min n 15 + 1), ← ih (n + 1)]
      congr 1
      omega
    · by_cases hnul : sym = symNul
      · rw [hnul, eventsFrom_nul, eventsFrom_nul, ih]
      · rw [eventsFrom_sound _ _ _ _ hend hnul, eventsFrom_sound _ _ _ _ hend hnul, flushOf_min]

/-! ### Its sounds -/

/-- A symbol that is neither END_CHAR nor NUL is a sound (R21, R197). -/
theorem sym_eq_dit_or_dah {sym : Sym} (hend : sym ≠ symEndChar) (hnul : sym ≠ symNul) :
    sym = 0b01#2 ∨ sym = 0b10#2 := by
  revert sym; decide

/-- A sound's flags are the bare base (R203). -/
theorem soundEvent_eq (base : Byte) (sym : Sym) :
    soundEvent base sym = ⟨if sym = 0b01#2 then .dit else .dah, base⟩ := by
  simp [soundEvent, eventFlags]

theorem kind_soundEvent_ne_silence (base : Byte) (sym : Sym) : (soundEvent base sym).kind ≠ .silence := by
  rw [soundEvent]
  split <;> simp

/-- Every event that is no Silence has the event `x` behind it. -/
def SoundsFollowedBy (x : Event) (es : List Event) : Prop :=
  ∀ n e, es[n]? = some e → e.kind ≠ .silence → es[n + 1]? = some x

theorem SoundsFollowedBy.cons_silence {x e : Event} {es : List Event} (h : SoundsFollowedBy x es)
    (he : e.kind = .silence) : SoundsFollowedBy x (e :: es)
  | 0, _, hn, hk => absurd (Option.some.inj hn ▸ he) hk
  | n + 1, e', hn, hk => h n e' hn hk

theorem SoundsFollowedBy.cons_cons {x : Event} {es : List Event} (e : Event) (h : SoundsFollowedBy x (x :: es)) :
    SoundsFollowedBy x (e :: x :: es)
  | 0, _, _, _ => rfl
  | n + 1, e', hn, hk => h n e' hn hk

/-- A FLUSH is a Silence or nothing (R199). -/
theorem flushOf_cases (c : Config) (base : Byte) (n : Nat) :
    flushOf c base n = [] ∨ flushOf c base n = [silenceEvent c base (spaceClass n)] := by
  rw [flushOf]
  split
  · exact .inl rfl
  · exact .inr rfl

theorem SoundsFollowedBy.flushOf_append {x : Event} {es : List Event} (h : SoundsFollowedBy x es) (c : Config)
    (base : Byte) (n : Nat) : SoundsFollowedBy x (flushOf c base n ++ es) := by
  rcases flushOf_cases c base n with hf | hf <;> rw [hf]
  · exact h
  · exact h.cons_silence rfl

theorem filter_flushOf (c : Config) (base : Byte) (n : Nat) :
    (flushOf c base n).filter (fun e => e.kind != .silence) = [] := by
  rcases flushOf_cases c base n with hf | hf <;> rw [hf] <;> rfl

theorem soundsFollowedBy_eventsFrom (c : Config) (base : Byte) (n : Nat) (syms : List Sym) :
    SoundsFollowedBy (silenceEvent c base .intra) (eventsFrom c base n syms) := by
  have hnil : SoundsFollowedBy (silenceEvent c base .intra) [] := by simp [SoundsFollowedBy]
  induction syms generalizing n with
  | nil => simpa [eventsFrom] using hnil.flushOf_append c base n
  | cons sym syms ih =>
    by_cases hend : sym = symEndChar
    · rw [hend, eventsFrom_endChar]; exact ih _
    · by_cases hnul : sym = symNul
      · rw [hnul, eventsFrom_nul]; exact ih _
      · rw [eventsFrom_sound _ _ _ _ hend hnul]
        exact (((ih 0).cons_silence rfl).cons_cons _).flushOf_append c base n

/-- The sounds of a symbol sequence are its DITs and DAHs, in order (R197, R206). -/
theorem filter_eventsFrom (c : Config) (base : Byte) (n : Nat) (syms : List Sym) :
    ((eventsFrom c base n syms).filter fun e => e.kind != .silence) =
      (syms.filter fun sym => sym == 0b01#2 || sym == 0b10#2).map fun sym =>
        ⟨if sym = 0b01#2 then .dit else .dah, base⟩ := by
  induction syms generalizing n with
  | nil => exact filter_flushOf c base n
  | cons sym syms ih =>
    by_cases hend : sym = symEndChar
    · rw [hend, eventsFrom_endChar, ih]; rfl
    · by_cases hnul : sym = symNul
      · rw [hnul, eventsFrom_nul, ih]; rfl
      · have hsound : (sym == 0b01#2 || sym == 0b10#2) = true := by simpa using sym_eq_dit_or_dah hend hnul
        rw [eventsFrom_sound _ _ _ _ hend hnul, List.filter_append, filter_flushOf, List.nil_append,
          List.filter_cons_of_pos (by simpa using kind_soundEvent_ne_silence base sym),
          List.filter_cons_of_neg (by simp [silenceEvent]), ih, soundEvent_eq,
          List.filter_cons_of_pos (p := fun sym => sym == 0b01#2 || sym == 0b10#2) hsound, List.map_cons]

/-- Settles O44: by induction on the symbols, a sound brings its INTRA and a flush brings only a Silence. -/
theorem soundsAreTheSymbolsInOrder : Obligations.SoundsAreTheSymbolsInOrder := fun c base _ =>
  ⟨soundsFollowedBy_eventsFrom c base 0 _, filter_eventsFrom c base 0 _⟩

end Sys2Proof.Machine
end

section
/-! SUPPORT. One slot of the walk: the cursor, the symbol's effect and the last flush (R190 to R203, R209). -/

namespace Sys2Proof.Machine

/-! ### The state one visit leaves -/

/-- The slot under the cursor visited in the byte `v`: the symbol's effect, the cursor's move, the last flush. -/
def State.visit (s : State) (v : Byte) : State :=
  finalFlush (advanceSlot (visitSymbol (slotOf v s.slot.val) { s with b := v }))

/-- Below the latched length the walk visits the slot in the byte read at slot 0 and held for the others (R192). -/
theorem walkStep_of_byte {s : State} {v : Byte} (hbi : s.bi < s.dlen.toNat)
    (hread : s.slot = 0 → s.buf.read s.bi = some v) (hheld : s.slot ≠ 0 → s.b = v) :
    walkStep s = .ok (toEmitOrWalk (s.visit v)) := by
  rcases walkStep_cases rfl with ⟨hv, _⟩ | ⟨_, hs, hr, _⟩ | ⟨_, v', hread', hheld', hm⟩
  · exact absurd (of_decide_eq_true hv) (Nat.not_le.mpr hbi)
  · rw [hread hs] at hr; cases hr
  · have hvv : v' = v := by
      by_cases hs : s.slot = 0
      · exact Option.some.inj ((hread' hs).symm.trans (hread hs))
      · exact (hheld' hs).symm.trans (hheld hs)
    rw [hm, hvv]
    rfl

/-- A visited slot is the last one exactly when every slot has then been visited (R193, R209). -/
theorem dlen_le_advanceSlot_iff {s : State} (hbi : s.bi < s.dlen.toNat) :
    s.dlen.toNat ≤ (advanceSlot s).bi ↔ 4 * s.bi + s.slot.val + 1 = 4 * s.dlen.toNat := by
  have hpos := advanceSlot_position s
  omega

/-- The last flush, with the count at which it is made (R199, R200). -/
theorem finalFlush_eq_append (s : State) :
    finalFlush s = { s with q := s.q ++ if s.allVisited then flushOf s.cfg s.base s.cnt.toNat else [] } := by
  rw [finalFlush]
  split
  · rw [flushEvents_eq_flushOf]
  · rw [List.append_nil]

/-- A visit changes the byte held, the count, the queue and the cursor. -/
theorem State.visit_eq {s : State} (v : Byte) (hbi : s.bi < s.dlen.toNat) :
    s.visit v =
      { s with
        b := v
        cnt := (visitSymbol (slotOf v s.slot.val) s).cnt
        q := (visitSymbol (slotOf v s.slot.val) s).q ++
          if 4 * s.bi + s.slot.val + 1 = 4 * s.dlen.toNat then
            flushOf s.cfg s.base (visitSymbol (slotOf v s.slot.val) s).cnt.toNat
          else []
        bi := (advanceSlot s).bi
        slot := (advanceSlot s).slot } := by
  have hvisit : visitSymbol (slotOf v s.slot.val) { s with b := v } =
      { s with b := v, cnt := (visitSymbol (slotOf v s.slot.val) s).cnt,
               q := (visitSymbol (slotOf v s.slot.val) s).q } := by
    rw [visitSymbol, visitSymbol]
    split_ifs <;> rfl
  have hadvance (cnt : BitVec 4) (q : List Event) :
      advanceSlot { s with b := v, cnt := cnt, q := q } =
        { s with b := v, cnt := cnt, q := q, bi := (advanceSlot s).bi, slot := (advanceSlot s).slot } := by
    rw [advanceSlot, advanceSlot]
    split <;> rfl
  rw [State.visit, hvisit, hadvance, finalFlush_eq_append]
  simp only [State.allVisited, decide_eq_true_eq, dlen_le_advanceSlot_iff hbi]

theorem State.visit_position {s : State} (v : Byte) (hbi : s.bi < s.dlen.toNat) :
    4 * (s.visit v).bi + (s.visit v).slot.val = 4 * s.bi + s.slot.val + 1 := by
  rw [State.visit_eq v hbi]
  exact advanceSlot_position s

theorem State.allVisited_visit {s : State} (v : Byte) (hbi : s.bi < s.dlen.toNat) :
    (s.visit v).allVisited = decide (4 * s.bi + s.slot.val + 1 = 4 * s.dlen.toNat) := by
  rw [State.visit_eq v hbi]
  exact decide_eq_decide.mpr (dlen_le_advanceSlot_iff hbi)

/-! ### The engine after a walk step -/

/-- The walk emits what is queued, or goes on, or is over (R209). -/
theorem toEmitOrWalk_eng (s : State) :
    (toEmitOrWalk s).eng = if s.q ≠ [] then .dEmit else if s.allVisited then .dFin else .dWalk := by
  cases hq : s.q with
  | nil => rw [toEmitOrWalk_of_nil hq]; rfl
  | cons e es => rw [toEmitOrWalk_of_cons hq]; rfl

/-- Settles O39: the state after the visit, symbol by symbol. -/
theorem walkActsOnTheSymbol : Obligations.WalkActsOnTheSymbol := by
  intro s t v he hq hbi hread hheld ht last hlast
  have hstep : coreStep s = .next (toEmitOrWalk (s.visit v)) := by
    simp only [coreStep, he]
    rw [walkStep_of_byte hbi hread hheld, Micro.toOutcome_ok]
  rw [hstep] at ht
  cases ht
  have heng := toEmitOrWalk_eng (s.visit v)
  have hposition := State.visit_position v hbi
  rw [State.allVisited_visit v hbi, ← hlast] at heng
  obtain ⟨_, _, _, _, hemit⟩ := toEmitOrWalk_eq (s.visit v)
  rw [hemit] at heng ⊢
  refine ⟨hposition, ?_, ?_, fun hsym => ?_, fun hsym => ?_, fun hsym => ?_, heng⟩
  all_goals rw [State.visit_eq v hbi]
  · simp [visitSymbol_endChar s hsym, toNat_countEndChar, hq, flushOf, hlast, silenceEvent, eventFlags]
  · rw [visitSymbol_nul s hsym, ← flushEvents_eq_flushOf]
    by_cases hc : s.cnt = 0#4 <;> simp [hq, flushEvents, hc, hlast, silenceEvent, eventFlags]
  · have hend : slotOf v s.slot.val ≠ symEndChar := by rcases hsym with h | h <;> rw [h] <;> decide
    have hnul : slotOf v s.slot.val ≠ symNul := by rcases hsym with h | h <;> rw [h] <;> decide
    simp [visitSymbol_sound s hend hnul, hq, flushEvents, flushOf, silenceEvent, soundEvent_eq, eventFlags, spaceCode]

end Sys2Proof.Machine
end

section
/-! SUPPORT. The events still to come of a running DISPATCH, and that every step but a reset keeps them in order behind
those delivered (R190, R209, R212). -/

namespace Sys2Proof.Machine

/-! ### The symbols under the cursor -/

theorem length_flatMap_slotsOf (bytes : List Byte) : (bytes.flatMap slotsOf).length = 4 * bytes.length := by
  simp [slotsOf, Nat.mul_comm]

/-- Symbol `4a + j` of the bytes is slot `j` of byte `a` (R193). -/
theorem getElem?_flatMap_slotsOf (bytes : List Byte) (a : Nat) (j : Fin 4) :
    (bytes.flatMap slotsOf)[4 * a + j.val]? = bytes[a]?.map fun v => slotOf v j.val := by
  induction bytes generalizing a with
  | nil => rfl
  | cons v bytes ih =>
    cases a with
    | zero => fin_cases j <;> rfl
    | succ a =>
      rw [List.flatMap_cons, List.getElem?_append_right (by simp [slotsOf]; omega), List.getElem?_cons_succ, ← ih]
      congr 1
      simp only [slotsOf, List.length_cons, List.length_nil]
      omega

/-- With a byte under the cursor its slot is the next symbol (R193). -/
theorem symbolsLeft_eq_cons {s : State} {bytes : List Byte} {v : Byte} (hv : bytes[s.bi]? = some v) :
    symbolsLeft s bytes =
      slotOf v s.slot.val :: (bytes.flatMap slotsOf).drop (4 * s.bi + s.slot.val + 1) := by
  have hsym := getElem?_flatMap_slotsOf bytes s.bi s.slot
  rw [hv, Option.map_some, List.getElem?_eq_some_iff] at hsym
  obtain ⟨hlt, hsym⟩ := hsym
  rw [symbolsLeft, List.drop_eq_getElem_cons hlt, hsym]

theorem symbolsLeft_of_allVisited {s : State} {bytes : List Byte} (hlen : s.dlen.toNat = bytes.length)
    (hv : s.allVisited = true) : symbolsLeft s bytes = [] := by
  have := of_decide_eq_true hv
  exact List.drop_eq_nil_of_le (by rw [length_flatMap_slotsOf]; omega)

/-! ### One slot visited -/

/-- The events the walk will still queue: none once every slot has been visited and the last flush made (R209). -/
def eventsToCome (s : State) (bytes : List Byte) : List Event :=
  if s.allVisited then [] else eventsFrom s.cfg s.base s.cnt.toNat (symbolsLeft s bytes)

/-- The events a symbol brings go from those to come into the queue (R194 to R197). -/
theorem visitSymbol_eventsFrom (sym : Sym) (s : State) (syms : List Sym) :
    (visitSymbol sym s).q ++ eventsFrom s.cfg s.base (visitSymbol sym s).cnt.toNat syms =
      s.q ++ eventsFrom s.cfg s.base s.cnt.toNat (sym :: syms) := by
  rcases visitSymbol_cases sym s with ⟨rfl, h⟩ | ⟨rfl, h⟩ | ⟨hend, hnul, h⟩ <;> rw [h]
  · rw [eventsFrom_endChar, toNat_countEndChar, eventsFrom_min]
  · rw [eventsFrom_nul]
  · rw [eventsFrom_sound _ _ _ _ hend hnul, ← flushEvents_eq_flushOf]
    simp

/-- A visit moves events from those to come into the queue, the last flush included (R190, R200). -/
theorem State.visit_eventsToCome {s : State} {bytes : List Byte} {v : Byte} (hlen : s.dlen.toNat = bytes.length)
    (hv : bytes[s.bi]? = some v) :
    (s.visit v).q ++ eventsToCome (s.visit v) bytes =
      s.q ++ eventsFrom s.cfg s.base s.cnt.toNat (symbolsLeft s bytes) := by
  have hbi : s.bi < s.dlen.toNat := by
    rw [hlen]
    exact (List.getElem?_eq_some_iff.mp hv).1
  have hleft : symbolsLeft (s.visit v) bytes = (bytes.flatMap slotsOf).drop (4 * s.bi + s.slot.val + 1) := by
    rw [symbolsLeft, State.visit_position v hbi]
  rw [symbolsLeft_eq_cons hv, ← visitSymbol_eventsFrom, ← hleft, eventsToCome, State.allVisited_visit v hbi]
  by_cases hlast : 4 * s.bi + s.slot.val + 1 = 4 * s.dlen.toNat
  · have hnil : symbolsLeft (s.visit v) bytes = [] :=
      symbolsLeft_of_allVisited (by rw [State.visit_eq v hbi]; exact hlen)
        (by rw [State.allVisited_visit v hbi]; exact decide_eq_true hlast)
    rw [hnil, State.visit_eq v hbi]
    simp [hlast, eventsFrom]
  · rw [State.visit_eq v hbi]
    simp [hlast]

/-! ### A walk step -/

/-- The head of the walk: D_WALK with nothing queued, over written bytes, in the middle of a byte with that byte held
(R190, R192). -/
structure WalkHead (s : State) (bytes : List Byte) : Prop where
  eng : s.eng = .dWalk
  queue : s.q = []
  dlen : s.dlen.toNat = bytes.length
  bytes : holdsBuf s bytes
  held : byteHeld s

/-- The byte under the cursor: the walk visits a slot in it (R190, R192). -/
theorem WalkHead.walkStep_eq {s : State} {bytes : List Byte} (h : WalkHead s bytes) (hbi : s.bi < s.dlen.toNat) :
    ∃ v, bytes[s.bi]? = some v ∧ s.buf.read s.bi = some v ∧ walkStep s = .ok (toEmitOrWalk (s.visit v)) := by
  have hlt : s.bi < bytes.length := h.dlen ▸ hbi
  have hread : s.buf.read s.bi = some bytes[s.bi] := (h.bytes s.bi hlt).trans (List.getElem?_eq_getElem hlt)
  refine ⟨bytes[s.bi], List.getElem?_eq_getElem hlt, hread, walkStep_of_byte hbi (fun _ => hread) fun hs => ?_⟩
  exact Option.some.inj ((h.held hs).symm.trans hread)

/-- With every slot visited a walk step only makes the last flush (R209). -/
theorem walkStep_of_allVisited {s : State} (hv : s.allVisited = true) :
    walkStep s = .ok (toEmitOrWalk (finalFlush s)) := by
  rw [walkStep, if_pos hv]

/-- The last flush queues the events of the empty rest of the walk (R200). -/
theorem finalFlush_eventsToCome {s : State} {bytes : List Byte} (hlen : s.dlen.toNat = bytes.length)
    (hv : s.allVisited = true) :
    (finalFlush s).q ++ eventsToCome (finalFlush s) bytes =
      s.q ++ eventsFrom s.cfg s.base s.cnt.toNat (symbolsLeft s bytes) := by
  have hv' : (finalFlush s).allVisited = true := by rw [finalFlush_eq_append]; exact hv
  rw [eventsToCome, if_pos hv', symbolsLeft_of_allVisited hlen hv, finalFlush_eq_append]
  simp [hv, eventsFrom]

/-! ### The events pending -/

/-- After a walk step the events pending are those queued and those to come, whatever the engine state (R209). -/
theorem pendingEvents_toEmitOrWalk (s : State) (bytes : List Byte) :
    pendingEvents (toEmitOrWalk s) bytes = s.q ++ eventsToCome s bytes := by
  cases hq : s.q with
  | nil =>
    rw [toEmitOrWalk_of_nil hq, pendingEvents, eventsToCome]
    cases hv : s.allVisited <;> simp [hq, symbolsLeft]
  | cons e es =>
    rw [toEmitOrWalk_of_cons hq, pendingEvents, eventsToCome, present_q, hq]
    rfl

theorem WalkHead.pendingEvents_eq {s : State} {bytes : List Byte} (h : WalkHead s bytes) :
    pendingEvents s bytes = s.q ++ eventsFrom s.cfg s.base s.cnt.toNat (symbolsLeft s bytes) := by
  rw [pendingEvents, h.eng]

theorem pendingEvents_of_dEmit {s : State} (bytes : List Byte) (h : s.eng = .dEmit) :
    pendingEvents s bytes = s.q ++ eventsToCome s bytes := by
  rw [pendingEvents, h, eventsToCome]

theorem delivered_toEmitOrWalk (s : State) : (toEmitOrWalk s).delivered = s.delivered := by
  obtain ⟨_, _, _, _, h⟩ := toEmitOrWalk_eq s
  rw [h]

/-- A walk step delivers nothing and keeps the events pending (R190, R209). -/
theorem WalkHead.pendingEvents_walkStep {s t : State} {bytes : List Byte} (h : WalkHead s bytes)
    (ht : walkStep s = .ok t) : pendingEvents t bytes = pendingEvents s bytes := by
  rw [h.pendingEvents_eq]
  rcases Nat.lt_or_ge s.bi s.dlen.toNat with hbi | hbi
  · obtain ⟨v, hv, _, hstep⟩ := h.walkStep_eq hbi
    cases hstep.symm.trans ht
    rw [pendingEvents_toEmitOrWalk, State.visit_eventsToCome h.dlen hv]
  · have hv : s.allVisited = true := decide_eq_true hbi
    cases (walkStep_of_allVisited hv).symm.trans ht
    rw [pendingEvents_toEmitOrWalk, finalFlush_eventsToCome h.dlen hv]

/-- An acceptance moves the head of the events pending behind those delivered (R209, R212). -/
theorem delivered_append_pendingEvents_acceptEvent {s : State} (bytes : List Byte) (h : s.eng = .dEmit) :
    (acceptEvent s).delivered ++ pendingEvents (acceptEvent s) bytes = s.delivered ++ pendingEvents s bytes := by
  rw [pendingEvents_of_dEmit bytes h]
  rcases acceptEvent_cases s with ⟨_, ha⟩ | ⟨e, _, hq, ha⟩ | ⟨e, e', es, _, hq, ha⟩ <;> rw [ha]
  · rw [pendingEvents_of_dEmit bytes h]
  · rw [pendingEvents, eventsToCome, hq]
    cases hv : s.allVisited <;> simp [symbolsLeft]
  · rw [pendingEvents_of_dEmit bytes (by exact h), hq]
    exact List.append_assoc s.delivered [e] (e' :: es ++ eventsToCome s bytes)

end Sys2Proof.Machine
end

section
/-! SUPPORT. Under any schedule the events of a DISPATCH are delivered in order, each exactly once
(R190, R209, R212). -/

namespace Sys2Proof.Machine

/-- What a step from `s` to `t` of a running DISPATCH of `bytes` keeps: the events delivered followed by those pending,
and either the walk's operands and bytes, or, where it completes the command, nothing is left pending (R190, R212). -/
structure EventsKept (s t : State) (bytes : List Byte) : Prop where
  events : t.delivered ++ pendingEvents t bytes = s.delivered ++ pendingEvents s bytes
  running : t.dispatching = true → t.dlen = s.dlen ∧ t.base = s.base ∧ holdsBuf t bytes
  completed : t.dispatching = false → t.busy = false ∧ t.done = true ∧ pendingEvents t bytes = []

theorem busy_of_dispatching {s : State} (h : s.dispatching = true) : s.busy = true := by
  refine (busy_eq_true_iff s).mpr fun he => ?_
  simp [State.dispatching, he] at h

/-- A step that leaves the DISPATCH running, its operands and BUF as they are. -/
theorem eventsKept_of_running {s t : State} {bytes : List Byte} (hb : holdsBuf s bytes) (hd : t.dispatching = true)
    (hdlen : t.dlen = s.dlen) (hbase : t.base = s.base) (hbuf : t.buf = s.buf)
    (he : t.delivered ++ pendingEvents t bytes = s.delivered ++ pendingEvents s bytes) : EventsKept s t bytes where
  events := he
  running _ := ⟨hdlen, hbase, by rw [holdsBuf, hbuf]; exact hb⟩
  completed hn := absurd (hd.symm.trans hn) (by decide)

/-! ### The core -/

theorem Inv.walkHead {s : State} {bytes : List Byte} (h : Inv s) (he : s.eng = .dWalk)
    (hlen : s.dlen.toNat = bytes.length) (hb : holdsBuf s bytes) : WalkHead s bytes :=
  have ⟨_, _, hheld⟩ := (engineInv_dWalk he).mp h.engine
  ⟨he, (h.silentRun (by simp [he]) (by simp [he])).queue, hlen, hb, hheld⟩

/-- At the head of the walk the next step is a walk step, over a written byte or over none (R190, R209). -/
theorem WalkHead.coreStep_eq {s t : State} {bytes : List Byte} (h : WalkHead s bytes) (ht : coreStep s = .next t) :
    walkStep s = .ok t ∧ ∃ u, t = toEmitOrWalk u := by
  simp only [coreStep, h.eng] at ht
  rcases Nat.lt_or_ge s.bi s.dlen.toNat with hbi | hbi
  · obtain ⟨v, _, _, hstep⟩ := h.walkStep_eq hbi
    rw [hstep] at ht
    cases ht
    exact ⟨hstep, _, rfl⟩
  · have hstep := walkStep_of_allVisited (decide_eq_true hbi : s.allVisited = true)
    rw [hstep] at ht
    cases ht
    exact ⟨hstep, _, rfl⟩

theorem dispatching_toEmitOrWalk (s : State) : (toEmitOrWalk s).dispatching = true := by
  rw [State.dispatching, toEmitOrWalk_eng]
  split_ifs <;> rfl

theorem eventsKept_coreStep {s t : State} {bytes : List Byte} (h : Inv s) (hd : s.dispatching = true)
    (hlen : s.dlen.toNat = bytes.length) (hb : holdsBuf s bytes) (ht : coreStep s = .next t) :
    EventsKept s t bytes := by
  cases he : s.eng
  case idle | eClear | eScan | eTerm | eFin | xDecode => simp [State.dispatching, he] at hd
  case dWalk =>
    have hhead := h.walkHead he hlen hb
    have hframe := (stepFrame_coreStep ht).fields
    have hbuf : t.buf = s.buf := coreStep_buf_of_not_encoding (by simp [State.encoding, he]) ht
    have hdelivered : t.delivered = s.delivered := by rw [hframe]
    obtain ⟨hstep, u, rfl⟩ := hhead.coreStep_eq ht
    exact eventsKept_of_running hb (dispatching_toEmitOrWalk u) (by rw [hframe]) (by rw [hframe]) hbuf
      (by rw [hdelivered, hhead.pendingEvents_walkStep hstep])
  case dEmit =>
    cases (coreStep_of_dEmit he).symm.trans ht
    exact eventsKept_of_running hb hd rfl rfl rfl rfl
  case dFin =>
    have hq : s.q = [] := (h.silentRun (by simp [he]) (by simp [he])).queue
    have hpending : pendingEvents s bytes = [] := by simp [pendingEvents, he, hq]
    have hpending' : pendingEvents (finish 0#32 s) bytes = [] := by simp [pendingEvents, hq]
    simp only [coreStep, he] at ht
    cases ht
    exact ⟨by rw [hpending, hpending', finish_delivered], nofun, fun _ => ⟨rfl, rfl, hpending'⟩⟩

/-! ### The collaborator and the host -/

/-- An acceptance leaves the DISPATCH running, its operands and BUF as they are (R202, R209). -/
theorem acceptEvent_keeps_walk {s : State} (he : s.eng = .dEmit) :
    (acceptEvent s).dispatching = true ∧ (acceptEvent s).dlen = s.dlen ∧ (acceptEvent s).base = s.base ∧
      (acceptEvent s).buf = s.buf := by
  have hd : s.dispatching = true := by simp [State.dispatching, he]
  rcases acceptEvent_cases s with ⟨_, ha⟩ | ⟨e, _, _, ha⟩ | ⟨e, e', es, _, _, ha⟩ <;> rw [ha]
  · exact ⟨hd, rfl, rfl, rfl⟩
  · refine ⟨?_, rfl, rfl, rfl⟩
    cases hv : s.allVisited <;> rfl
  · exact ⟨hd, rfl, rfl, rfl⟩

theorem eventsKept_acceptEvent {s : State} {bytes : List Byte} (h : Inv s) (hd : s.dispatching = true)
    (hb : holdsBuf s bytes) : EventsKept s (acceptEvent s) bytes := by
  cases hv : s.evValid with
  | false =>
    rw [acceptEvent_of_silent hv]
    exact eventsKept_of_running hb hd rfl rfl rfl rfl
  | true =>
    have he := h.dEmit_of_evValid hv
    obtain ⟨hd', hdlen, hbase, hbuf⟩ := acceptEvent_keeps_walk he
    exact eventsKept_of_running hb hd' hdlen hbase hbuf (delivered_append_pendingEvents_acceptEvent bytes he)

/-- The host reaches neither the walk, the queue nor BUF while the DISPATCH runs (R73, R242). -/
theorem eventsKept_hostAccess {op : BusOp} {s t : State} {bytes : List Byte} (hd : s.dispatching = true)
    (hb : holdsBuf s bytes) (ht : hostAccess op s = .next t) : EventsKept s t bytes := by
  rw [hostAccess_of_busy (busy_of_dispatching hd) ht]
  exact eventsKept_of_running hb hd rfl rfl rfl rfl

/-- Settles O41: the step is one agent's, and each agent but the reset keeps the events in order. -/
theorem eventsAreDeliveredInOrderOnce : Obligations.EventsAreDeliveredInOrderOnce := by
  intro s t bytes h hd hlen hb ht hreset
  have hkept : EventsKept s t bytes := by
    rcases step_cases h.config with ⟨_, hstep⟩ | ⟨a, rest, hsched, hstep⟩ <;> rw [hstep] at ht
    · exact eventsKept_coreStep h hd hlen hb ht
    · have hkept' : EventsKept { s with schedule := rest } t bytes := by
        cases a with
        | host op => exact eventsKept_hostAccess (s := { s with schedule := rest }) hd hb ht
        | core => exact eventsKept_coreStep (h.withSchedule rest) hd hlen hb ht
        | accept => cases ht; exact eventsKept_acceptEvent (h.withSchedule rest) hd hb
        | reset => simp [hsched] at hreset
      exact { hkept' with }
  exact ⟨hkept.events, hkept.running, hkept.completed⟩

end Sys2Proof.Machine
end

section
/-! SUPPORT. DISPATCH from its issue to its completion, with a collaborator that accepts each event as it is presented
(R190 to R213). -/

namespace Sys2Proof.Machine

/-! ### Runs of served steps -/

theorem servedStep_of_silent {s : State} (h : s.evValid = false) : servedStep s = coreStep s := by
  simp [servedStep, h]

theorem servedStep_of_presented {s : State} (h : s.evValid = true) : servedStep s = .next (acceptEvent s) := by
  simp [servedStep, h]

theorem servedRun_succ {s t : State} (h : servedStep s = .next t) (n : Nat) : servedRun (n + 1) s = servedRun n t := by
  simp only [servedRun, h]

theorem servedRun_add {m : Nat} {s t : State} (h : servedRun m s = .next t) (n : Nat) :
    servedRun (m + n) s = servedRun n t := by
  induction m generalizing s with
  | zero => cases h; rw [Nat.zero_add]
  | succ m ih =>
    cases hstep : servedStep s <;> simp only [servedRun, hstep] at h
    case fault | refused => cases h
    case next u => rw [Nat.add_right_comm, servedRun_succ hstep, ih h]

/-- An idle block with nothing on its port stays as it is (R256). -/
theorem servedRun_of_idle {s : State} (he : s.eng = .idle) (hv : s.evValid = false) (n : Nat) :
    servedRun n s = .next s := by
  induction n with
  | zero => rfl
  | succ n ih =>
    have hstep : servedStep s = .next s := by rw [servedStep_of_silent hv]; simp only [coreStep, he]
    rw [servedRun_succ hstep, ih]

/-! ### Delivery of a queue -/

/-- `t` is `s` with its queue delivered: the port is silent, and the walk goes on or is over (R209, R212). -/
structure QueueDelivered (s t : State) : Prop where
  fields : t = { s with delivered := t.delivered, q := t.q, eng := t.eng, evValid := t.evValid, evKind := t.evKind,
                        evFlags := t.evFlags, freeIdx := t.freeIdx }
  delivered : t.delivered = s.delivered ++ s.q
  queue : t.q = []
  eng : t.eng = if s.allVisited then .dFin else .dWalk
  silent : t.evValid = false

/-- A presented queue is delivered in one acceptance per event (R209, R212). -/
theorem servedRun_of_presented {s : State} {e : Event} {es : List Event} (hv : s.evValid = true) (hq : s.q = e :: es) :
    ∃ t, servedRun (es.length + 1) s = .next t ∧ QueueDelivered s t := by
  induction es generalizing s e with
  | nil =>
    refine ⟨_, servedRun_succ (servedStep_of_presented hv) 0, ?_⟩
    rw [acceptEvent_of_last hv hq]
    exact ⟨rfl, congrArg (s.delivered ++ ·) hq.symm, rfl, rfl, rfl⟩
  | cons e' es ih =>
    obtain ⟨t, hrun, ht⟩ := ih (s := acceptEvent s) (e := e') (by rw [acceptEvent_of_more hv hq]; rfl)
      (by rw [acceptEvent_of_more hv hq]; rfl)
    refine ⟨t, (servedRun_succ (servedStep_of_presented hv) _).trans hrun, ?_⟩
    rw [acceptEvent_of_more hv hq] at ht
    have hdelivered : t.delivered = s.delivered ++ s.q := by rw [ht.delivered, hq]; exact List.append_assoc ..
    exact ⟨ht.fields, hdelivered, ht.queue, ht.eng, ht.silent⟩

/-- What a walk step has queued is delivered in one acceptance per event (R209, R212). -/
theorem servedRun_toEmitOrWalk {s : State} (hv : s.evValid = false) :
    ∃ t, servedRun s.q.length (toEmitOrWalk s) = .next t ∧ QueueDelivered s t := by
  cases hq : s.q with
  | nil =>
    refine ⟨_, rfl, ?_⟩
    rw [toEmitOrWalk_of_nil hq]
    exact ⟨rfl, by rw [hq, List.append_nil], hq, rfl, hv⟩
  | cons e es =>
    rw [toEmitOrWalk_of_cons hq]
    obtain ⟨t, hrun, ht⟩ := servedRun_of_presented (s := present e { s with eng := .dEmit }) rfl hq
    exact ⟨t, hrun, ht.fields, ht.delivered, ht.queue, ht.eng, ht.silent⟩

/-! ### The walk -/

/-- A DISPATCH that has completed with the events `es` delivered since `s` and no byte stored (R190, R202). -/
structure DispatchOutcome (s : State) (es : List Event) (u : State) : Prop where
  idle : u.eng = .idle
  silent : u.evValid = false
  done : u.done = true
  err : u.err = false
  trunc : u.trunc = s.trunc
  result : u.result = 0#32
  delivered : u.delivered = s.delivered ++ es
  text : u.text = s.text
  buf : u.buf = s.buf

/-- In D_FIN the DISPATCH completes in one step (R205, R209). -/
theorem dispatchOutcome_of_dFin {s : State} (he : s.eng = .dFin) (hv : s.evValid = false) :
    servedRun 1 s = .next (finish 0#32 s) ∧ DispatchOutcome s [] (finish 0#32 s) := by
  have hstep : servedStep s = .next (finish 0#32 s) := by
    rw [servedStep_of_silent hv]
    simp only [coreStep, he]
  exact ⟨servedRun_succ hstep 0, rfl, hv, rfl, rfl, rfl, rfl, (List.append_nil _).symm, rfl, rfl⟩

/-- Once its queue is delivered, what a DISPATCH still delivers comes behind the queue. -/
theorem DispatchOutcome.of_queueDelivered {s t u : State} {es : List Event} (h : DispatchOutcome t es u)
    (ht : QueueDelivered s t) : DispatchOutcome s (s.q ++ es) u where
  idle := h.idle
  silent := h.silent
  done := h.done
  err := h.err
  trunc := by rw [h.trunc, ht.fields]
  result := h.result
  delivered := by rw [h.delivered, ht.delivered, List.append_assoc]
  text := by rw [h.text, ht.fields]
  buf := by rw [h.buf, ht.fields]

/-- The queue at most three events long after a visit from an empty one (R42). -/
theorem State.length_q_visit {s : State} (v : Byte) (hq : s.q = []) : (s.visit v).q.length ≤ 3 := by
  obtain ⟨q, _, _, _, hvisit, hlen, _⟩ := visitSlot_eq (slotOf v s.slot.val) (s := { s with b := v }) hq
  rw [State.visit, hvisit]
  exact hlen

/-- After a visit the byte under the cursor is held, or the cursor stands at the start of the next one (R192, R193). -/
theorem byteHeld_visit {s : State} {v : Byte} (hq : s.q = []) (hr : s.buf.read s.bi = some v) :
    byteHeld (s.visit v) := by
  obtain ⟨q, cnt, bi, slot, hvisit, _, hcursor⟩ :=
    visitSlot_eq (slotOf v s.slot.val) (s := { s with b := v }) hq
  rw [State.visit, hvisit]
  intro hs
  rcases hcursor with rfl | ⟨_, h0⟩
  · exact hr
  · exact absurd h0 hs

/-- Once what a visit queued is delivered, the walk that goes on is at its head again (R190, R209). -/
theorem WalkHead.of_visit {s t : State} {bytes : List Byte} {v : Byte} (h : WalkHead s bytes)
    (hbi : s.bi < s.dlen.toNat) (hr : s.buf.read s.bi = some v) (hv : (s.visit v).allVisited = false)
    (ht : QueueDelivered (s.visit v) t) : WalkHead t bytes := by
  have hheld := byteHeld_visit h.queue hr
  have heng : t.eng = .dWalk := by rw [ht.eng, hv]; rfl
  refine ⟨heng, ht.queue, ?_, ?_, ?_⟩ <;> rw [ht.fields]
  · rw [State.visit_eq v hbi]; exact h.dlen
  · rw [State.visit_eq v hbi]; exact h.bytes
  · exact hheld

/-- A slot is visited and what it queued delivered in at most four steps; then the rest of the walk follows. -/
theorem WalkHead.servedRun_of_rest {k : Nat} {s : State} {bytes : List Byte} (h : WalkHead s bytes)
    (hsilent : s.evValid = false) (hbi : s.bi < s.dlen.toNat)
    (hrest : ∀ v t, s.buf.read s.bi = some v → QueueDelivered (s.visit v) t →
      ∃ n u, n ≤ k ∧ servedRun n t = .next u ∧ DispatchOutcome t (eventsToCome (s.visit v) bytes) u) :
    ∃ n u, n ≤ k + 4 ∧ servedRun n s = .next u ∧
      DispatchOutcome s (eventsFrom s.cfg s.base s.cnt.toNat (symbolsLeft s bytes)) u := by
  obtain ⟨v, hbyte, hr, hwalk⟩ := h.walkStep_eq hbi
  have hstep : servedStep s = .next (toEmitOrWalk (s.visit v)) := by
    rw [servedStep_of_silent hsilent]
    simp only [coreStep, h.eng]
    rw [hwalk, Micro.toOutcome_ok]
  obtain ⟨t, hdeliver, ht⟩ := servedRun_toEmitOrWalk (s := s.visit v) (by rw [State.visit_eq v hbi]; exact hsilent)
  obtain ⟨n, u, hn, hrun, hu⟩ := hrest v t hr ht
  have hevents := State.visit_eventsToCome h.dlen hbyte
  have hlen := State.length_q_visit v h.queue
  have hout := hu.of_queueDelivered ht
  rw [h.queue, List.nil_append] at hevents
  rw [hevents, State.visit_eq v hbi] at hout
  refine ⟨(s.visit v).q.length + n + 1, u, by omega, ?_, { hout with }⟩
  rw [servedRun_succ hstep, servedRun_add hdeliver, hrun]

/-- From the head of the walk with `m + 1` slots left, a DISPATCH completes within four steps a slot and one more, with
the events of the symbols left (R190, R209). -/
theorem servedRun_of_walkHead {m : Nat} {s : State} {bytes : List Byte} (h : WalkHead s bytes)
    (hsilent : s.evValid = false) (hm : 4 * s.bi + s.slot.val + (m + 1) = 4 * s.dlen.toNat) :
    ∃ n u, n ≤ 4 * (m + 1) + 1 ∧ servedRun n s = .next u ∧
      DispatchOutcome s (eventsFrom s.cfg s.base s.cnt.toNat (symbolsLeft s bytes)) u := by
  induction m generalizing s with
  | zero =>
    have hbi : s.bi < s.dlen.toNat := by omega
    refine h.servedRun_of_rest hsilent hbi fun v t _ ht => ?_
    have hv : (s.visit v).allVisited = true := (State.allVisited_visit v hbi).trans (decide_eq_true hm)
    obtain ⟨hrun, hu⟩ := dispatchOutcome_of_dFin (by rw [ht.eng, if_pos hv]) ht.silent
    rw [eventsToCome, if_pos hv]
    exact ⟨1, _, Nat.le_refl 1, hrun, hu⟩
  | succ m ih =>
    have hbi : s.bi < s.dlen.toNat := by omega
    refine h.servedRun_of_rest hsilent hbi fun v t hr ht => ?_
    have hv : (s.visit v).allVisited = false := (State.allVisited_visit v hbi).trans (decide_eq_false (by omega))
    have hposition := State.visit_position v hbi
    have hdlen : (s.visit v).dlen = s.dlen := by rw [State.visit_eq v hbi]
    obtain ⟨n, u, hn, hrun, hu⟩ := ih (h.of_visit hbi hr hv ht) ht.silent (by rw [ht.fields]; simp only [hdlen]; omega)
    have hevents : eventsFrom t.cfg t.base t.cnt.toNat (symbolsLeft t bytes) = eventsToCome (s.visit v) bytes := by
      rw [eventsToCome, if_neg (by simp [hv]), ht.fields]
      rfl
    exact ⟨n, u, hn, hrun, hevents ▸ hu⟩

/-! ### From the issue to the completion -/

/-- The state of a DISPATCH accepted from an idle state (R190, R241). -/
def acceptedDispatch (s : State) : State :=
  { latch 2#2 (clearStatus s) with eng := .dWalk, bi := 0, slot := 0, cnt := 0#4, q := [] }

theorem exec_dispatch_of_ready {s : State} {bytes : List Byte} (h : ReadyToDispatch s bytes) :
    exec .dispatch s = .next (acceptedDispatch s) := by
  rw [exec_dispatch_of_idle h.idle, startDispatch_of_legal h.dlenHigh]
  rfl

theorem ReadyToDispatch.walkHead {s : State} {bytes : List Byte} (h : ReadyToDispatch s bytes) :
    WalkHead (acceptedDispatch s) bytes :=
  ⟨rfl, rfl, h.dlen, h.bytes, fun hs => absurd rfl hs⟩

/-- With LENGTH = 0 an accepted DISPATCH has nothing to visit or to flush and completes in two steps (R190, R200). -/
theorem servedRun_of_empty {s : State} (h : ReadyToDispatch s []) :
    ∃ u, servedRun 2 (acceptedDispatch s) = .next u ∧ DispatchOutcome (acceptedDispatch s) [] u := by
  have hv : (acceptedDispatch s).allVisited = true := decide_eq_true h.dlen.le
  have hflush : finalFlush (acceptedDispatch s) = acceptedDispatch s := by rw [finalFlush, if_pos hv]; rfl
  have hwalk : walkStep (acceptedDispatch s) = .ok { acceptedDispatch s with eng := .dFin } := by
    rw [walkStep_of_allVisited hv, hflush, toEmitOrWalk_of_nil rfl, if_pos hv]
  have hstep : servedStep (acceptedDispatch s) = .next { acceptedDispatch s with eng := .dFin } := by
    rw [servedStep_of_silent (s := acceptedDispatch s) h.port]
    exact congrArg Micro.toOutcome hwalk
  obtain ⟨hrun, hu⟩ := dispatchOutcome_of_dFin (s := { acceptedDispatch s with eng := .dFin }) rfl h.port
  exact ⟨_, (servedRun_succ hstep 1).trans hrun, { hu with }⟩

/-- An accepted DISPATCH completes within 16 steps a byte and 3 more, with the events of the bytes (R190). -/
theorem dispatch_completes {s : State} {bytes : List Byte} (h : ReadyToDispatch s bytes) :
    ∃ u, servedRun (16 * bytes.length + 3) (acceptedDispatch s) = .next u ∧
      DispatchOutcome (acceptedDispatch s) (eventsOf s.cfg (flagsBase s.flags) bytes) u := by
  have hbounded : ∃ n u, n ≤ 16 * bytes.length + 3 ∧ servedRun n (acceptedDispatch s) = .next u ∧
      DispatchOutcome (acceptedDispatch s) (eventsOf s.cfg (flagsBase s.flags) bytes) u := by
    cases bytes with
    | nil =>
      obtain ⟨u, hrun, hu⟩ := servedRun_of_empty h
      exact ⟨2, u, by decide, hrun, hu⟩
    | cons v bytes =>
      have hdlen : s.length.toNat = bytes.length + 1 := h.dlen
      obtain ⟨n, u, hn, hrun, hu⟩ := servedRun_of_walkHead (m := 4 * bytes.length + 3) h.walkHead h.port
        (show 4 * 0 + 0 + (4 * bytes.length + 3 + 1) = 4 * s.length.toNat by omega)
      exact ⟨n, u, by simp only [List.length_cons]; omega, hrun, hu⟩
  obtain ⟨n, u, hn, hrun, hu⟩ := hbounded
  obtain ⟨k, hk⟩ := Nat.exists_eq_add_of_le hn
  exact ⟨u, by rw [hk, servedRun_add hrun, servedRun_of_idle hu.idle hu.silent], hu⟩

/-- Settles O40: from its issue an accepted DISPATCH runs slot by slot to its completion. -/
theorem dispatchDeliversTheEvents : Obligations.DispatchDeliversTheEvents := by
  intro s bytes h
  obtain ⟨u, hrun, hu⟩ := dispatch_completes h
  exact ⟨_, u, exec_dispatch_of_ready h, rfl, hrun, (busy_eq_false_iff u).mpr hu.idle, hu.done, hu.err, hu.trunc,
    hu.result, hu.delivered, fun _ => by rw [hu.buf]; rfl, fun _ => by rw [hu.text]; rfl⟩

end Sys2Proof.Machine
end

section
/-! SUPPORT. Two states that differ only in the caller's flags: the relation between their micro-operations and
outcomes, and the encoder, which neither reads nor writes what they differ in (R204, R214). -/

namespace Sys2Proof.Machine

/-! ### Alike states, micro-operations and outcomes -/

/-- Two micro-operations with values in the relation `R`, or two ended commands in states alike but for the caller's
flags, or the same fault. -/
inductive MicroAlike {α : Type} (R : α → α → Prop) : Micro α → Micro α → Prop
  | ok {a b : α} (h : R a b) : MicroAlike R (.ok a) (.ok b)
  | ended {s t : State} (h : SameButFlags s t) : MicroAlike R (.ended s) (.ended t)
  | fault (e : Fault) : MicroAlike R (.fault e) (.fault e)

/-- Two next states alike but for the caller's flags, or the same fault, or the same refusal. -/
inductive OutcomeAlike : Host.Outcome State Fault Refusal → Host.Outcome State Fault Refusal → Prop
  | next {s t : State} (h : SameButFlags s t) : OutcomeAlike (.next s) (.next t)
  | fault (e : Fault) : OutcomeAlike (.fault e) (.fault e)
  | refused (r : Refusal) : OutcomeAlike (.refused r) (.refused r)

theorem MicroAlike.bind {α β : Type} {R : α → α → Prop} {R' : β → β → Prop} {m m' : Micro α} {f f' : α → Micro β}
    (h : MicroAlike R m m') (hf : ∀ a b, R a b → MicroAlike R' (f a) (f' b)) :
    MicroAlike R' (m.bind f) (m'.bind f') := by
  cases h with
  | ok h => exact hf _ _ h
  | ended h => exact .ended h
  | fault e => exact .fault e

theorem MicroAlike.toOutcome {m m' : Micro State} (h : MicroAlike SameButFlags m m') :
    OutcomeAlike m.toOutcome m'.toOutcome := by
  cases h with
  | ok h => exact .next h
  | ended h => exact .next h
  | fault e => exact .fault e

/-- A micro-operation that does not depend on the state is alike to itself. -/
theorem microAlike_refl {α : Type} (m : Micro α) (hm : ∀ s, m ≠ .ended s) : MicroAlike Eq m m := by
  cases m with
  | ok a => exact .ok rfl
  | ended s => exact absurd rfl (hm s)
  | fault e => exact .fault e

/-- A related choice by one condition. -/
theorem ite_alike {α : Type} {R : α → α → Prop} {p : Prop} [Decidable p] {a b a' b' : α} (h : p → R a a')
    (h' : ¬p → R b b') : R (if p then a else b) (if p then a' else b') := by
  split
  · exact h ‹_›
  · exact h' ‹_›

theorem readBuf_ne_ended (a : Nat) (s u : State) : readBuf a s ≠ .ended u := by
  cases hr : s.buf.read a <;> simp [readBuf, hr]

theorem readText_ne_ended (a : Nat) (s u : State) : readText a s ≠ .ended u := by
  cases hr : s.text.read a <;> simp [readText, hr]

/-- The state as an update of the other one. -/
theorem SameButFlags.eq_update {s t : State} (h : SameButFlags s t) :
    ∃ flags base evFlags q delivered reads,
      t = { s with flags := flags, base := base, evFlags := evFlags, q := q, delivered := delivered, reads := reads } :=
  ⟨_, _, _, _, _, _, h.fields⟩

/-! ### The encoder -/

/-- The answers of an append: states alike but for the caller's flags, and the same verdict. -/
def AppendAlike (r r' : State × Bool) : Prop := SameButFlags r.1 r'.1 ∧ r.2 = r'.2

section
variable {s t : State} (h : SameButFlags s t)
include h

theorem SameButFlags.finish (v : Word) : SameButFlags (finish v s) (finish v t) := by
  obtain ⟨_, _, _, _, _, _, rfl⟩ := h.eq_update
  exact { h with fields := rfl }

theorem SameButFlags.boundedWrite (a : Nat) (v : Byte) :
    MicroAlike SameButFlags (boundedWrite a v s) (boundedWrite a v t) := by
  obtain ⟨_, _, _, _, _, _, rfl⟩ := h.eq_update
  exact ite_alike (p := a < s.cap.toNat) (fun _ => .ok { h with fields := rfl }) fun _ => .ended (h.finish _)

theorem SameButFlags.readBuf (a : Nat) : MicroAlike Eq (readBuf a s) (readBuf a t) := by
  obtain ⟨_, _, _, _, _, _, rfl⟩ := h.eq_update
  exact microAlike_refl (Machine.readBuf a s) (readBuf_ne_ended a s)

theorem SameButFlags.readText (a : Nat) : MicroAlike Eq (readText a s) (readText a t) := by
  obtain ⟨_, _, _, _, _, _, rfl⟩ := h.eq_update
  exact microAlike_refl (Machine.readText a s) (readText_ne_ended a s)

theorem SameButFlags.boundedGroup (k : Nat) (g : Sym) :
    MicroAlike SameButFlags (boundedGroup k g s) (boundedGroup k g t) := by
  obtain ⟨_, _, _, _, _, _, rfl⟩ := h.eq_update
  refine ite_alike (p := k / 4 < s.cap.toNat) (fun _ => ?_) fun _ => .ended (h.finish _)
  refine (h.readBuf (k / 4)).bind fun v _ hv => ?_
  cases hv
  exact .ok { h with fields := rfl }

theorem SameButFlags.putByte (v : Byte) : MicroAlike SameButFlags (putByte v s) (putByte v t) := by
  have hp : t.p = s.p := by rw [h.fields]
  rw [Machine.putByte, Machine.putByte, hp]
  refine (h.boundedWrite s.p v).bind fun s' t' h' => ?_
  obtain ⟨_, _, _, _, _, _, rfl⟩ := h'.eq_update
  exact .ok { h' with fields := rfl }

theorem SameButFlags.putGroup (g : Sym) : MicroAlike SameButFlags (putGroup g s) (putGroup g t) := by
  have hk : t.k = s.k := by rw [h.fields]
  rw [Machine.putGroup, Machine.putGroup, hk]
  refine (h.boundedGroup s.k g).bind fun s' t' h' => ?_
  obtain ⟨_, _, _, _, _, _, rfl⟩ := h'.eq_update
  exact .ok { h' with fields := rfl }

theorem SameButFlags.putRecord (vs : List Byte) :
    MicroAlike SameButFlags (putRecord vs s) (putRecord vs t) := by
  induction vs generalizing s t with
  | nil => exact .ok h
  | cons v vs ih => exact (h.putByte v).bind fun _ _ => ih

theorem SameButFlags.putRun (gs : List Sym) :
    MicroAlike SameButFlags (putRun gs s) (putRun gs t) := by
  induction gs generalizing s t with
  | nil => exact .ok h
  | cons g gs ih => exact (h.putGroup g).bind fun _ _ => ih

theorem SameButFlags.append (cc : Code) (limit : Nat) :
    MicroAlike AppendAlike (append cc limit s) (append cc limit t) := by
  have hmode : t.mode = s.mode := by rw [h.fields]
  rcases mode_cases s with hm | hm
  · rw [append_of_aligned cc limit hm, append_of_aligned cc limit (hmode.trans hm)]
    obtain ⟨_, _, _, _, _, _, rfl⟩ := h.eq_update
    exact ite_alike (p := limit < s.p + (record cc).length) (fun _ => .ok ⟨h, rfl⟩) fun _ =>
      (h.putRecord (record cc)).bind fun _ _ h' => .ok ⟨h', rfl⟩
  · rw [append_of_compact cc limit hm, append_of_compact cc limit (hmode.trans hm)]
    obtain ⟨_, _, _, _, _, _, rfl⟩ := h.eq_update
    exact ite_alike (p := 4 * limit < s.k + (run s.cfg cc).length) (fun _ => .ok ⟨h, rfl⟩) fun _ =>
      (h.putRun (run s.cfg cc)).bind fun _ _ h' => .ok ⟨h', rfl⟩

theorem SameButFlags.toScanOrTerm : SameButFlags (toScanOrTerm s) (toScanOrTerm t) := by
  obtain ⟨_, _, _, _, _, _, rfl⟩ := h.eq_update
  exact { h with fields := rfl }

theorem SameButFlags.clearStep : MicroAlike SameButFlags (clearStep s) (clearStep t) := by
  have hj : t.j = s.j := by rw [h.fields]
  rw [Machine.clearStep, Machine.clearStep, hj]
  refine (h.boundedWrite s.j 0#8).bind fun s' t' h' => ?_
  obtain ⟨_, _, _, _, _, _, rfl⟩ := h'.eq_update
  exact ite_alike (p := s'.j + 1 < s'.cap.toNat) (fun _ => .ok { h' with fields := rfl }) fun _ =>
    .ok { h' with fields := rfl }

theorem SameButFlags.haltUnless (fits : Bool) : SameButFlags (haltUnless fits s) (haltUnless fits t) := by
  obtain ⟨_, _, _, _, _, _, rfl⟩ := h.eq_update
  cases fits with
  | false => exact { h with fields := rfl }
  | true => exact h

theorem SameButFlags.nextByte (cc : Code) :
    SameButFlags { s with i := s.i + 1, cc := cc } { t with i := t.i + 1, cc := cc } := by
  obtain ⟨_, _, _, _, _, _, rfl⟩ := h.eq_update
  exact { h with fields := rfl }

theorem SameButFlags.scanStep : MicroAlike SameButFlags (scanStep s) (scanStep t) := by
  obtain ⟨_, _, _, _, _, _, rfl⟩ := h.eq_update
  refine ite_alike (p := s.scanning = true) (fun _ => ?_) fun _ => .ok { h with fields := rfl }
  refine (h.readText s.i).bind fun v _ hv => ?_
  cases hv
  refine (microAlike_refl (resolve s.cfg (classify v)) (resolve_ne_ended _ _)).bind fun code _ hcode => ?_
  cases hcode
  cases code with
  | none => exact .ok { h with fields := rfl }
  | some cc =>
    refine ((h.nextByte cc).append cc (effective s)).bind fun r r' hr => ?_
    obtain ⟨hstate, hfits⟩ := hr
    rw [hfits]
    exact .ok (hstate.haltUnless r'.2).toScanOrTerm

theorem SameButFlags.termStep : MicroAlike SameButFlags (termStep s) (termStep t) := by
  have hcap : t.cap = s.cap := by rw [h.fields]
  rw [Machine.termStep, Machine.termStep, hcap]
  refine (h.append endStop s.cap.toNat).bind fun r r' hr => ?_
  obtain ⟨_, _, _, _, _, _, hupdate⟩ := hr.1.eq_update
  exact .ok { hr.1 with fields := by rw [hupdate] }

theorem SameButFlags.finStep : SameButFlags (finStep s) (finStep t) := by
  obtain ⟨_, _, _, _, _, _, rfl⟩ := h.eq_update
  exact { h with fields := rfl }

end

end Sys2Proof.Machine
end

section
/-! SUPPORT. The dispatcher, the collaborator and the host from two states that differ only in the caller's flags: the
flags reach bits 7:4 of the events' flags and the data of host reads, and no decision (R204, R214). -/

namespace Sys2Proof.Machine

/-- Queues of the same shapes are both empty, or they have heads of one shape and rests of the same shapes. -/
theorem queue_cases_of_shapes_eq {es es' : List Event} (h : es.map Event.shape = es'.map Event.shape) :
    (es = [] ∧ es' = []) ∨
    ∃ e fs e' fs', es = e :: fs ∧ es' = e' :: fs' ∧ e.shape = e'.shape ∧ fs.map Event.shape = fs'.map Event.shape := by
  cases es with
  | nil => exact .inl ⟨rfl, List.map_eq_nil_iff.mp h.symm⟩
  | cons e fs =>
    obtain ⟨e', fs', hes', hshape, hshapes⟩ := List.map_eq_cons_iff.mp h.symm
    exact .inr ⟨e, fs, e', fs', rfl, hes', hshape.symm, hshapes.symm⟩

section
variable {s t : State} (h : SameButFlags s t)
include h

/-! ### The dispatcher -/

theorem SameButFlags.flushEvents : (flushEvents s).map Event.shape = (flushEvents t).map Event.shape := by
  have hbase := h.base
  obtain ⟨_, _, _, _, _, _, rfl⟩ := h.eq_update
  by_cases hc : s.cnt = 0#4
  · simp [Machine.flushEvents, hc]
  · simp [Machine.flushEvents, hc, shape_silenceEvent _ _ hbase]

theorem SameButFlags.visitSymbol (sym : Sym) : SameButFlags (visitSymbol sym s) (visitSymbol sym t) := by
  have hflush := h.flushEvents
  have hbase := h.base
  obtain ⟨_, _, _, _, _, _, rfl⟩ := h.eq_update
  by_cases hend : sym = symEndChar
  · rw [visitSymbol_endChar _ hend, visitSymbol_endChar _ hend]
    exact { h with fields := rfl }
  · by_cases hnul : sym = symNul
    · rw [visitSymbol_nul _ hnul, visitSymbol_nul _ hnul]
      exact h
    · rw [visitSymbol_sound _ hend hnul, visitSymbol_sound _ hend hnul]
      refine { h with fields := rfl, q := ?_ }
      simp only [List.map_append, List.map_cons, List.map_nil]
      rw [h.q, hflush, shape_soundEvent sym hbase, shape_silenceEvent _ _ hbase]

theorem SameButFlags.advanceSlot : SameButFlags (advanceSlot s) (advanceSlot t) := by
  obtain ⟨_, _, _, _, _, _, rfl⟩ := h.eq_update
  exact ite_alike (p := s.slot = 3) (fun _ => { h with fields := rfl }) fun _ => { h with fields := rfl }

theorem SameButFlags.finalFlush : SameButFlags (finalFlush s) (finalFlush t) := by
  have hflush := h.flushEvents
  obtain ⟨_, _, _, _, _, _, rfl⟩ := h.eq_update
  refine ite_alike (p := s.allVisited = true) (fun _ => { h with fields := rfl, q := ?_ }) fun _ => h
  rw [List.map_append, List.map_append, h.q, hflush]

theorem SameButFlags.present {e e' : Event} (he : e.shape = e'.shape) :
    SameButFlags (present e s) (present e' t) := by
  obtain ⟨_, _, _, _, _, _, rfl⟩ := h.eq_update
  obtain ⟨hkind, hflags⟩ := Prod.mk.inj he
  exact { h with fields := by simp [Machine.present, hkind], evFlags := hflags }

theorem SameButFlags.toEmitOrWalk : SameButFlags (toEmitOrWalk s) (toEmitOrWalk t) := by
  rcases queue_cases_of_shapes_eq h.q with ⟨hq, hq'⟩ | ⟨e, es, e', es', hq, hq', he, _⟩
  · rw [toEmitOrWalk_of_nil hq, toEmitOrWalk_of_nil hq']
    obtain ⟨_, _, _, _, _, _, rfl⟩ := h.eq_update
    exact { h with fields := rfl }
  · rw [toEmitOrWalk_of_cons hq, toEmitOrWalk_of_cons hq']
    refine SameButFlags.present ?_ he
    obtain ⟨_, _, _, _, _, _, rfl⟩ := h.eq_update
    exact { h with fields := rfl }

theorem SameButFlags.currentByte : MicroAlike Eq (currentByte s) (currentByte t) := by
  have hread := h.readBuf s.bi
  obtain ⟨_, _, _, _, _, _, rfl⟩ := h.eq_update
  exact ite_alike (p := s.slot = 0) (fun _ => hread) fun _ => .ok rfl

theorem SameButFlags.holdByte (v : Byte) : SameButFlags { s with b := v } { t with b := v } := by
  obtain ⟨_, _, _, _, _, _, rfl⟩ := h.eq_update
  exact { h with fields := rfl }

theorem SameButFlags.walkStep : MicroAlike SameButFlags (walkStep s) (walkStep t) := by
  have hv : t.allVisited = s.allVisited := by rw [h.fields]; rfl
  have hslot : t.slot = s.slot := by rw [h.fields]
  rw [Machine.walkStep, Machine.walkStep, hv]
  refine ite_alike (fun _ => .ok h.finalFlush.toEmitOrWalk) fun _ => h.currentByte.bind fun v _ hb => ?_
  cases hb
  rw [show slotOf v t.slot.val = slotOf v s.slot.val by rw [hslot]]
  exact .ok ((h.holdByte v).visitSymbol (slotOf v s.slot.val)).advanceSlot.finalFlush.toEmitOrWalk

/-! ### The core and the collaborator -/

theorem SameButFlags.coreStep : OutcomeAlike (coreStep s) (coreStep t) := by
  have heng : t.eng = s.eng := by rw [h.fields]
  rw [Machine.coreStep, Machine.coreStep, heng]
  cases s.eng
  case idle | dEmit => exact .next h
  case eClear => exact h.clearStep.toOutcome
  case eScan => exact h.scanStep.toOutcome
  case eTerm => exact h.termStep.toOutcome
  case eFin => exact .next h.finStep
  case dWalk => exact h.walkStep.toOutcome
  case dFin | xDecode => exact .next (h.finish 0#32)

/-- An accepted event's shape is delivered, and the rest of the queue is left (R212). -/
theorem SameButFlags.deliver {e e' : Event} {es es' : List Event} (he : e.shape = e'.shape)
    (hes : es.map Event.shape = es'.map Event.shape) :
    SameButFlags { s with delivered := s.delivered ++ [e], q := es }
      { t with delivered := t.delivered ++ [e'], q := es' } := by
  obtain ⟨_, _, _, _, _, _, rfl⟩ := h.eq_update
  refine { h with fields := rfl, q := hes, delivered := ?_ }
  simp only [List.map_append, List.map_cons, List.map_nil]
  rw [h.delivered, he]

theorem SameButFlags.withdraw : SameButFlags (withdraw s) (withdraw t) := by
  obtain ⟨_, _, _, _, _, _, rfl⟩ := h.eq_update
  exact { h with fields := rfl, evFlags := rfl }

theorem SameButFlags.walkOrFin :
    SameButFlags { s with eng := if s.allVisited then .dFin else .dWalk }
      { t with eng := if t.allVisited then .dFin else .dWalk } := by
  obtain ⟨_, _, _, _, _, _, rfl⟩ := h.eq_update
  exact { h with fields := rfl }

theorem SameButFlags.acceptEvent : SameButFlags (acceptEvent s) (acceptEvent t) := by
  have hvalid : t.evValid = s.evValid := by rw [h.fields]
  cases hv : s.evValid with
  | false =>
    rw [acceptEvent_of_silent hv, acceptEvent_of_silent (hvalid.trans hv)]
    exact h
  | true =>
    rcases queue_cases_of_shapes_eq h.q with ⟨hq, hq'⟩ | ⟨e, es, e', es', hq, hq', he, hes⟩
    · rw [show Machine.acceptEvent s = s by simp [Machine.acceptEvent, hq],
        show Machine.acceptEvent t = t by simp [Machine.acceptEvent, hq']]
      exact h
    · have hdeliver := h.deliver he hes
      rcases queue_cases_of_shapes_eq hes with ⟨rfl, rfl⟩ | ⟨f, fs, f', fs', rfl, rfl, hf, _⟩
      · rw [acceptEvent_of_last hv hq, acceptEvent_of_last (hvalid.trans hv) hq']
        exact hdeliver.walkOrFin.withdraw
      · rw [acceptEvent_of_more hv hq, acceptEvent_of_more (hvalid.trans hv) hq']
        exact hdeliver.present hf

/-! ### Issue -/

theorem SameButFlags.clearStatus : SameButFlags (clearStatus s) (clearStatus t) := by
  obtain ⟨_, _, _, _, _, _, rfl⟩ := h.eq_update
  exact { h with fields := rfl }

/-- Whatever FLAGS holds, the latched base has no low nibble (R39). -/
theorem SameButFlags.latch (o : BitVec 2) : SameButFlags (latch o s) (latch o t) := by
  obtain ⟨flags, _, _, _, _, _, rfl⟩ := h.eq_update
  exact { h with fields := rfl, base := (flagsBase_low s.flags).trans (flagsBase_low flags).symm }

theorem SameButFlags.startEncode (mode : Mode) : SameButFlags (startEncode mode s) (startEncode mode t) := by
  obtain ⟨_, _, _, _, _, _, rfl⟩ := h.eq_update
  exact ite_alike (p := s.cap.toNat < threshold) (fun _ => h.finish _) fun _ =>
    ite_alike (p := s.cfg.bufSize < s.cap.toNat ∨ s.cfg.textSize < s.tlen.toNat) (fun _ => h.finish _) fun _ =>
      { h with fields := rfl }

theorem SameButFlags.startDispatch : SameButFlags (startDispatch s) (startDispatch t) := by
  obtain ⟨_, _, _, _, _, _, rfl⟩ := h.eq_update
  exact ite_alike (p := s.cfg.bufSize < s.dlen.toNat) (fun _ => h.finish _) fun _ => { h with fields := rfl, q := rfl }

theorem SameButFlags.startDecode : SameButFlags (startDecode s) (startDecode t) := by
  obtain ⟨_, _, _, _, _, _, rfl⟩ := h.eq_update
  exact { h with fields := rfl }

theorem SameButFlags.issue (o : BitVec 2) {start : State → State}
    (hstart : ∀ {u v : State}, SameButFlags u v → SameButFlags (start u) (start v)) :
    OutcomeAlike (issue o start s) (issue o start t) := by
  have hbusy : t.busy = s.busy := by rw [h.fields]; rfl
  rw [Machine.issue, Machine.issue, hbusy]
  exact ite_alike (fun _ => .next h) fun _ => .next (hstart (h.clearStatus.latch o))

theorem SameButFlags.exec (i : Instr) : OutcomeAlike (exec i s) (exec i t) := by
  rw [exec_eq_issue, exec_eq_issue]
  cases i with
  | encodeAligned | encodeCompact => exact h.issue _ fun h' => h'.startEncode _
  | dispatch => exact h.issue _ fun h' => h'.startDispatch
  | decode => exact h.issue _ fun h' => h'.startDecode

theorem SameButFlags.writeCmd (w : Word) : OutcomeAlike (writeCmd w s) (writeCmd w t) := by
  have hbusy : t.busy = s.busy := by rw [h.fields]; rfl
  have hcfg : t.cfg = s.cfg := by rw [h.fields]
  cases hd : decodeCmd w with
  | ok i =>
    simp only [Machine.writeCmd, hd]
    exact h.exec i
  | error e =>
    simp only [Machine.writeCmd, hd, illegalCommand, hbusy, hcfg]
    exact ite_alike (fun _ => .next h) fun _ => .next (h.clearStatus.finish _)

/-! ### The host -/

theorem SameButFlags.answerRead (v v' : Word) : SameButFlags (answerRead v s) (answerRead v' t) := by
  obtain ⟨_, _, _, _, _, _, rfl⟩ := h.eq_update
  refine { h with fields := rfl, reads := ?_ }
  simpa [Machine.answerRead] using h.reads

theorem SameButFlags.drawFree :
    SameButFlags { s with freeIdx := s.freeIdx + 1 } { t with freeIdx := t.freeIdx + 1 } := by
  obtain ⟨_, _, _, _, _, _, rfl⟩ := h.eq_update
  exact { h with fields := rfl }

theorem SameButFlags.windowRead (m : Memory) (size a : Nat) :
    SameButFlags (windowRead m size a s) (windowRead m size a t) := by
  rw [Machine.windowRead, Machine.windowRead]
  split
  · exact h.answerRead _ _
  · cases m.read a with
    | none => exact h.drawFree.answerRead _ _
    | some v => exact h.answerRead _ _

theorem SameButFlags.windowAccess (width : Nat) {effect : State → State} (he : SameButFlags (effect s) (effect t)) :
    OutcomeAlike (windowAccess width effect s) (windowAccess width effect t) := by
  have hbusy : t.busy = s.busy := by rw [h.fields]; rfl
  rw [Machine.windowAccess, Machine.windowAccess, hbusy]
  exact ite_alike (fun _ => .fault _) fun _ => ite_alike (fun _ => .fault _) fun _ => .next he

theorem SameButFlags.hostRead (addr : BitVec 18) (width : Nat) :
    OutcomeAlike (hostRead addr width s) (hostRead addr width t) := by
  have htext : t.text = s.text := by rw [h.fields]
  have hbuf : t.buf = s.buf := by rw [h.fields]
  have hcfg : t.cfg = s.cfg := by rw [h.fields]
  cases hreg : region addr <;> simp only [Machine.hostRead, hreg]
  case register offset =>
    refine ite_alike (fun _ => ?_) fun _ => .fault _
    cases hostReg offset with
    | none => exact .next (h.answerRead _ _)
    | some r => exact .next (h.answerRead _ _)
  case text a => exact h.windowAccess width (by rw [htext, hcfg]; exact h.windowRead _ _ _)
  case buf a => exact h.windowAccess width (by rw [hbuf, hcfg]; exact h.windowRead _ _ _)
  case reserved => exact .next (h.answerRead _ _)

theorem SameButFlags.writeReg (d : Word) (r : HostReg) : SameButFlags (writeReg d s r) (writeReg d t r) := by
  obtain ⟨_, _, _, _, _, _, rfl⟩ := h.eq_update
  cases r <;> exact { h with fields := rfl }

theorem SameButFlags.writeTextByte (a : Nat) (v : Byte) : SameButFlags (writeTextByte a v s) (writeTextByte a v t) := by
  obtain ⟨_, _, _, _, _, _, rfl⟩ := h.eq_update
  exact ite_alike (p := a < s.cfg.textSize) (fun _ => { h with fields := rfl }) fun _ => h

theorem SameButFlags.writeBufByte (a : Nat) (v : Byte) : SameButFlags (writeBufByte a v s) (writeBufByte a v t) := by
  obtain ⟨_, _, _, _, _, _, rfl⟩ := h.eq_update
  exact ite_alike (p := a < s.cfg.bufSize) (fun _ => { h with fields := rfl }) fun _ => h

theorem SameButFlags.hostWrite (addr : BitVec 18) (width : Nat) (d : Word) :
    OutcomeAlike (hostWrite addr width d s) (hostWrite addr width d t) := by
  cases hreg : region addr <;> simp only [Machine.hostWrite, hreg]
  case register offset =>
    refine ite_alike (fun _ => ?_) fun _ => .fault _
    cases hostReg offset with
    | none => exact .next h
    | some r =>
      cases r with
      | cmd => exact h.writeCmd d
      | status | ctrl | textLen | capacity | length | flags | result => exact .next (h.writeReg d _)
  case text a => exact h.windowAccess width (h.writeTextByte a _)
  case buf a => exact h.windowAccess width (h.writeBufByte a _)
  case reserved => exact .next h

/-! ### Every agent's step -/

theorem SameButFlags.resetBlock : SameButFlags (resetBlock s) (resetBlock t) := by
  obtain ⟨_, _, _, _, _, _, rfl⟩ := h.eq_update
  exact { h with fields := rfl, base := rfl, evFlags := rfl, q := rfl }

theorem SameButFlags.act (a : Action) : OutcomeAlike (act a s) (act a t) := by
  cases a with
  | host op =>
    cases op with
    | read addr width => exact h.hostRead addr width
    | write addr width d => exact h.hostWrite addr width d
  | core => exact h.coreStep
  | accept => exact .next h.acceptEvent
  | reset => exact .next h.resetBlock

theorem SameButFlags.withSchedule (rest : List Action) :
    SameButFlags { s with schedule := rest } { t with schedule := rest } := by
  obtain ⟨_, _, _, _, _, _, rfl⟩ := h.eq_update
  exact { h with fields := rfl }

theorem SameButFlags.step : OutcomeAlike (step s) (step t) := by
  have hcfg : t.cfg = s.cfg := by rw [h.fields]
  have hsched : t.schedule = s.schedule := by rw [h.fields]
  cases hc : s.cfg.wellFormed with
  | false =>
    rw [step_of_illegal hc, step_of_illegal (by rw [hcfg]; exact hc), hcfg]
    exact ite_alike (fun _ => .refused _) fun _ => .refused _
  | true =>
    have hc' : t.cfg.wellFormed = true := by rw [hcfg]; exact hc
    cases hs : s.schedule with
    | nil =>
      rw [step_of_idle_schedule hc hs, step_of_idle_schedule hc' (hsched.trans hs)]
      exact h.coreStep
    | cons a rest =>
      rw [step_of_scheduled hc hs, step_of_scheduled hc' (hsched.trans hs)]
      exact (h.withSchedule rest).act a

end

/-- Settles O45: every agent's step keeps two states alike but for the caller's flags. -/
theorem callerFlagsChangeNoTransition : Obligations.CallerFlagsChangeNoTransition := by
  refine ⟨fun s f => ⟨rfl, rfl, rfl, rfl, rfl, rfl⟩, fun s s' h => ?_⟩
  generalize ho : step s = o
  generalize ho' : step s' = o'
  have halike := h.step
  rw [ho, ho'] at halike
  cases halike with
  | next h' => exact .inl ⟨_, _, rfl, rfl, h'⟩
  | fault e => exact .inr (.inl ⟨e, rfl, rfl⟩)
  | refused r => exact .inr (.inr ⟨r, rfl, rfl⟩)

end Sys2Proof.Machine
end

section
/-! SUPPORT. DECODE from its issue to its completion (R230, R232, R241, R245). -/

namespace Sys2Proof.Machine

/-- With BUSY = 0 a DECODE is accepted without an operand check (R230, R241). -/
theorem exec_decode_of_idle {s : State} (hb : s.busy = false) :
    exec .decode s = .next (startDecode (latch 3#2 (clearStatus s))) :=
  issue_of_idle 3#2 startDecode hb

theorem startDecode_busy (s : State) : (startDecode s).busy = true := rfl

/-- The core's one step of a DECODE just started is `finish(0)` (R232). -/
theorem coreStep_startDecode (s : State) : coreStep (startDecode s) = .next (finish 0#32 (startDecode s)) := rfl

/-- Settles O8: `finish(0)` right after the issue returns the engine to IDLE, where the issue found it. -/
theorem decodeCompletesInOneCoreStep : Obligations.DecodeCompletesInOneCoreStep := by
  intro s hb
  have hidle : s.eng = .idle := (busy_eq_false_iff s).mp hb
  refine ⟨_, exec_decode_of_idle hb, startDecode_busy _, rfl, rfl, ?_⟩
  rw [coreStep_startDecode]
  simp [finish, startDecode, latch, clearStatus, flagsBase, hidle]

end Sys2Proof.Machine
end

section
/-! SUPPORT. Everything a step of each agent can answer: a next state, or a fault with its cause (R37, R64, R73,
R250). -/

namespace Sys2Proof.Machine

/-! ### The host -/

/-- Every command answers a next state, in every state (R241, R242). -/
theorem exists_exec_eq_next (i : Instr) (s : State) : ∃ t, exec i s = .next t := by
  rw [exec_eq_issue]
  cases hb : s.busy with
  | true => exact ⟨s, issue_of_busy _ _ hb⟩
  | false => exact ⟨_, issue_of_idle _ _ hb⟩

theorem exists_writeCmd_eq_next (w : Word) (s : State) : ∃ t, writeCmd w s = .next t := by
  rcases writeCmd_cases w s with ⟨i, _, h⟩ | ⟨_, h⟩ <;> rw [h]
  · exact exists_exec_eq_next i s
  · cases hb : s.busy with
    | true => exact ⟨s, illegalCommand_of_busy hb⟩
    | false => exact ⟨_, illegalCommand_of_idle hb⟩

/-- What a host transaction can answer: a next state, BAD_ACCESS, or, while BUSY = 1, WINDOW_WHILE_BUSY (R250). -/
def HostAnswer (s : State) (o : Host.Outcome State Fault Refusal) : Prop :=
  (∃ t, o = .next t) ∨ o = .fault .badAccess ∨ (s.busy = true ∧ o = .fault .windowWhileBusy)

theorem hostAnswer_windowAccess (width : Nat) (effect : State → State) (s : State) :
    HostAnswer s (windowAccess width effect s) := by
  by_cases hw : width = 8
  · subst hw
    cases hb : s.busy with
    | true => exact .inr (.inr ⟨hb, windowAccess_of_busy effect hb⟩)
    | false => exact .inl ⟨_, windowAccess_of_idle hb⟩
  · exact .inr (.inl (windowAccess_of_width_ne effect s hw))

theorem hostAnswer_hostRead (addr : BitVec 18) (width : Nat) (s : State) : HostAnswer s (hostRead addr width s) := by
  cases hr : region addr <;> simp only [hostRead, hr]
  case register offset =>
    split
    · split <;> exact .inl ⟨_, rfl⟩
    · exact .inr (.inl rfl)
  case text | buf => exact hostAnswer_windowAccess width _ s
  case reserved => exact .inl ⟨_, rfl⟩

theorem hostAnswer_hostWrite (addr : BitVec 18) (width : Nat) (d : Word) (s : State) :
    HostAnswer s (hostWrite addr width d s) := by
  cases hr : region addr <;> simp only [hostWrite, hr]
  case register offset =>
    split
    · split
      · exact .inl (exists_writeCmd_eq_next d s)
      · exact .inl ⟨_, rfl⟩
      · exact .inl ⟨s, rfl⟩
    · exact .inr (.inl rfl)
  case text | buf => exact hostAnswer_windowAccess width _ s
  case reserved => exact .inl ⟨s, rfl⟩

theorem hostAnswer_hostAccess (op : BusOp) (s : State) : HostAnswer s (hostAccess op s) := by
  cases op with
  | read addr width => exact hostAnswer_hostRead addr width s
  | write addr width d => exact hostAnswer_hostWrite addr width d s

/-! ### The core -/

/-- The core's next read is of a byte nothing has written (R37). -/
def ReadsUnwritten (s : State) : Prop :=
  (s.eng = .eScan ∧ s.text.read s.i = none) ∨ (s.eng = .dWalk ∧ s.slot = 0 ∧ s.buf.read s.bi = none)

/-- What a core step can answer: a next state, or UNWRITTEN_READ at a byte nothing has written (R37, R250). -/
def CoreAnswer (s : State) (o : Host.Outcome State Fault Refusal) : Prop :=
  (∃ t, o = .next t) ∨ (ReadsUnwritten s ∧ o = .fault .unwrittenRead)

/-- E_SCAN faults only at its TEXT read: the byte's class resolves (R106) and its append stays within the cleared
buffer (R160). -/
theorem coreAnswer_scan {s : State} (h : Inv s) (he : s.eng = .eScan) : CoreAnswer s (coreStep s) := by
  obtain ⟨ho, hb, ⟨hp, hk⟩, hi, hh⟩ := (engineInv_eScan he).mp h.engine
  have hs : s.scanning = true := (scanning_iff s).mpr ⟨hi, hh⟩
  have hlimit : effective s ≤ s.cap.toNat := Nat.sub_le _ _
  cases hr : s.text.read s.i with
  | none =>
    exact .inr ⟨.inl ⟨he, hr⟩, by rw [coreStep_of_eScan he, scanStep_of_unwritten hs hr, Micro.toOutcome_fault]⟩
  | some v =>
    cases hv : codeOf s.cfg v with
    | none => exact .inl ⟨_, coreStep_scan_of_ignored h.config he hs hr hv⟩
    | some cc =>
      obtain ⟨_, _, _, _, happend, _⟩ :=
        append_keeps (cc := cc) (s := { s with i := s.i + 1, cc := cc }) hlimit hb hp hk h.data.buf ho.capHigh
      exact .inl ⟨_, by rw [coreStep_scan_of_code h.config he hs hr hv, happend]; rfl⟩

/-- E_TERM never faults: END_STOP goes into the cleared buffer (R151, R160). -/
theorem coreAnswer_term {s : State} (h : Inv s) (he : s.eng = .eTerm) : CoreAnswer s (coreStep s) := by
  obtain ⟨ho, hb, ⟨hp, hk⟩, _⟩ := (engineInv_eTerm he).mp h.engine
  have hcap := effective_add_threshold ho
  obtain ⟨_, _, _, _, happend, _⟩ :=
    append_keeps (cc := endStop) (Nat.le_refl _) hb (by omega) (by omega) h.data.buf ho.capHigh
  exact .inl ⟨_, by rw [coreStep_of_eTerm he, termStep, happend]; rfl⟩

/-- E_CLEAR only writes (R143). -/
theorem coreAnswer_clear {s : State} (h : Inv s) (he : s.eng = .eClear) : CoreAnswer s (coreStep s) := by
  obtain ⟨_, hj, _⟩ := (engineInv_eClear he).mp h.engine
  rw [coreStep_of_eClear he, clearStep_of_lt hj]
  split <;> exact .inl ⟨_, rfl⟩

theorem coreStep_of_dWalk {s : State} (h : s.eng = .dWalk) : coreStep s = (walkStep s).toOutcome := by
  simp only [coreStep, h]

/-- D_WALK faults only at its BUF read, which it makes at slot 0 (R190, R192). -/
theorem coreAnswer_walk {s : State} (he : s.eng = .dWalk) : CoreAnswer s (coreStep s) := by
  rw [coreStep_of_dWalk he]
  rcases walkStep_cases (s := s) rfl with ⟨_, hm⟩ | ⟨_, hslot, hr, hm⟩ | ⟨_, _, _, _, hm⟩ <;> rw [hm]
  · exact .inl ⟨_, rfl⟩
  · exact .inr ⟨.inr ⟨he, hslot, hr⟩, rfl⟩
  · exact .inl ⟨_, rfl⟩

theorem coreAnswer_coreStep {s : State} (h : Inv s) : CoreAnswer s (coreStep s) := by
  cases he : s.eng
  case eClear => exact coreAnswer_clear h he
  case eScan => exact coreAnswer_scan h he
  case eTerm => exact coreAnswer_term h he
  case dWalk => exact coreAnswer_walk he
  case idle | eFin | dEmit | dFin | xDecode =>
    simp only [coreStep, he]
    exact .inl ⟨_, rfl⟩

/-! ### The machine's step -/

/-- What a step can answer in a state of the invariant: a next state, the core's fault on the core's turn, or one of
the host's on the host's (R19, R250). -/
theorem step_answers {s : State} (h : Inv s) :
    (∃ t, step s = .next t) ∨
    ((s.schedule = [] ∨ s.schedule.head? = some .core) ∧ ReadsUnwritten s ∧ step s = .fault .unwrittenRead) ∨
    ((∃ op, s.schedule.head? = some (.host op)) ∧
      (step s = .fault .badAccess ∨ (s.busy = true ∧ step s = .fault .windowWhileBusy))) := by
  rcases step_cases h.config with ⟨hs, hstep⟩ | ⟨a, rest, hs, hstep⟩ <;> rw [hstep, hs]
  · exact (coreAnswer_coreStep h).imp id fun hf => .inl ⟨.inl rfl, hf⟩
  · cases a with
    | host op => exact (hostAnswer_hostAccess op { s with schedule := rest }).imp id fun hf => .inr ⟨⟨op, rfl⟩, hf⟩
    | core => exact (coreAnswer_coreStep (h.withSchedule rest)).imp id fun hf => .inl ⟨.inr rfl, hf⟩
    | accept => exact .inl ⟨_, rfl⟩
    | reset => exact .inl ⟨_, rfl⟩

/-- Settles O60, by the step's answer: the core's fault and the host's come each with its cause. -/
theorem everyFaultHasItsCause : Obligations.EveryFaultHasItsCause := by
  intro s h
  rcases step_answers h with ⟨t, hstep⟩ | ⟨hturn, hcause, hstep⟩ | ⟨hop, hstep | ⟨hb, hstep⟩⟩ <;> rw [hstep]
  · simp
  · simpa using ⟨hturn, hcause⟩
  · simpa using hop
  · simpa using ⟨hb, hop⟩

end Sys2Proof.Machine
end

section
/-! SUPPORT. What the issue of a command can do (R241 to R243), and what `finish` is (R245). -/

namespace Sys2Proof.Machine

/-! ### Accepted commands -/

/-- An ENCODE whose operands pass both checks of R141 is accepted (R241). -/
theorem exec_encode_of_legal (mode : Mode) {s : State} (hb : s.busy = false) (hlow : 2 ≤ s.capacity.toNat)
    (hhigh : s.capacity.toNat ≤ s.cfg.bufSize) (htext : s.textLen.toNat ≤ s.cfg.textSize) :
    exec (encodeInstr mode) s = .next (acceptedEncode mode s) := by
  rw [exec_encode_of_idle mode hb, startEncode_of_legal mode hlow hhigh htext]
  rfl

/-- A DISPATCH whose length passes the check of R191 is accepted (R241). -/
theorem exec_dispatch_of_legal {s : State} (hb : s.busy = false) (hlen : s.length.toNat ≤ s.cfg.bufSize) :
    exec .dispatch s = .next (acceptedDispatch s) := by
  rw [exec_dispatch_of_idle hb, startDispatch_of_legal hlen]
  rfl

/-- Settles O6: `acceptedEncode` written out, with the opcode of each mode. -/
theorem encodeWithLegalOperandsIsAccepted : Obligations.EncodeWithLegalOperandsIsAccepted :=
  fun _ hb hlow hhigh htext =>
    ⟨exec_encode_of_legal .aligned hb hlow hhigh htext, exec_encode_of_legal .compact hb hlow hhigh htext⟩

/-- Settles O7: `acceptedDispatch` written out. -/
theorem dispatchWithLegalLengthIsAccepted : Obligations.DispatchWithLegalLengthIsAccepted :=
  fun _ hb hlen => exec_dispatch_of_legal hb hlen

/-! ### Words that start no command -/

theorem decodeCmd_of_reserved {w : Word} (h : rsvdField w ≠ 0#30) : decodeCmd w = .error .reservedBits := by
  rw [decodeCmd, if_neg h]

/-- Settles O12: the decoder answers no command, and E_ILLEGAL is negative. -/
theorem illegalCommandWordIsRejected : Obligations.IllegalCommandWordIsRejected := by
  intro s w hc hb hw
  obtain ⟨_, _, herr, _⟩ := errors_of_wellFormed hc
  have hcmd : writeCmd w s = illegalCommand s := by rw [writeCmd, decodeCmd_of_reserved hw]
  rw [act_writeCmd_word, hcmd, illegalCommand_of_idle hb]
  simp [finish, clearStatus, herr, (busy_eq_false_iff s).mp hb]

/-- Settles O13: BUSY is tested before anything else is done, for a legal word and for an illegal one. -/
theorem commandWhileBusyIsIgnored : Obligations.CommandWhileBusyIsIgnored := fun s hb =>
  ⟨fun w => (act_writeCmd_word w s).trans (writeCmd_of_busy w hb),
   fun i => (exec_eq_issue i s).trans (issue_of_busy _ _ hb)⟩

/-! ### The frame of the issue -/

/-- With BUSY = 0 an ENCODE is rejected on the latched state or accepted (R141, R241). -/
theorem exec_encode_cases {mode : Mode} {s t : State} (hb : s.busy = false)
    (h : exec (encodeInstr mode) s = .next t) :
    (∃ v, t = finish v (latch (encodeInstr mode).op (clearStatus s))) ∨ t = acceptedEncode mode s := by
  rw [exec_encode_of_idle mode hb] at h
  cases h
  rcases startEncode_cases mode (latch (encodeInstr mode).op (clearStatus s)) with ⟨_, h⟩ | ⟨_, _, h⟩ | ⟨_, _, _, h⟩ <;>
    rw [h]
  · exact .inl ⟨_, rfl⟩
  · exact .inl ⟨_, rfl⟩
  · exact .inr rfl

/-- With BUSY = 0 a DISPATCH is rejected on the latched state or accepted (R191, R241). -/
theorem exec_dispatch_cases {s t : State} (hb : s.busy = false) (h : exec .dispatch s = .next t) :
    (∃ v, t = finish v (latch 2#2 (clearStatus s))) ∨ t = acceptedDispatch s := by
  rw [exec_dispatch_of_idle hb] at h
  cases h
  rcases Nat.lt_or_ge s.cfg.bufSize s.length.toNat with hlen | hlen
  · exact .inl ⟨_, startDispatch_of_range hlen⟩
  · exact .inr (startDispatch_of_legal hlen)

/-- What `exec` can do (R241, R242): nothing while BUSY = 1, else reject the command on the latched state or accept
it. -/
theorem exec_cases {i : Instr} {s t : State} (h : exec i s = .next t) :
    t = s ∨ (∃ v, t = finish v (latch i.op (clearStatus s))) ∨
    (∃ mode, i = encodeInstr mode ∧ t = acceptedEncode mode s) ∨ (i = .dispatch ∧ t = acceptedDispatch s) ∨
    (i = .decode ∧ t = startDecode (latch 3#2 (clearStatus s))) := by
  cases hb : s.busy with
  | true =>
    rw [exec_eq_issue, issue_of_busy _ _ hb] at h
    cases h
    exact .inl rfl
  | false =>
    cases i with
    | encodeAligned =>
      exact .inr ((exec_encode_cases (mode := .aligned) hb h).imp id fun ht => .inl ⟨.aligned, rfl, ht⟩)
    | encodeCompact =>
      exact .inr ((exec_encode_cases (mode := .compact) hb h).imp id fun ht => .inl ⟨.compact, rfl, ht⟩)
    | dispatch => exact .inr ((exec_dispatch_cases hb h).imp id fun ht => .inr (.inl ⟨rfl, ht⟩))
    | decode =>
      rw [exec_decode_of_idle hb] at h
      cases h
      exact .inr (.inr (.inr (.inr ⟨rfl, rfl⟩)))

/-- The fields an issue can reach: STATUS and RESULT, the engine state, the latched operands, the mode and `j`, and the
walk's cursor, count and queue (R39, R241). -/
theorem exec_fields {i : Instr} {s t : State} (h : exec i s = .next t) :
    t = { s with done := t.done, err := t.err, trunc := t.trunc, result := t.result, eng := t.eng, op := t.op,
                 tlen := t.tlen, cap := t.cap, dlen := t.dlen, base := t.base, mode := t.mode, j := t.j,
                 bi := t.bi, slot := t.slot, cnt := t.cnt, q := t.q } := by
  rcases exec_cases h with rfl | ⟨_, rfl⟩ | ⟨_, _, rfl⟩ | ⟨_, rfl⟩ | ⟨_, rfl⟩ <;> rfl

/-- An issue that changes RESULT has rejected the command: it is over, with DONE set (R244, R245). -/
theorem completes_of_exec_result_ne {i : Instr} {s t : State} (h : exec i s = .next t) (hne : t.result ≠ s.result) :
    t.busy = false ∧ t.done = true := by
  rcases exec_cases h with rfl | ⟨_, rfl⟩ | ⟨_, _, rfl⟩ | ⟨_, rfl⟩ | ⟨_, rfl⟩
  · exact absurd rfl hne
  · exact ⟨rfl, rfl⟩
  · exact absurd rfl hne
  · exact absurd rfl hne
  · exact absurd rfl hne

theorem encodeInstr_ne_dispatch (mode : Mode) : encodeInstr mode ≠ .dispatch := by
  cases mode <;> decide

theorem encodeInstr_ne_decode (mode : Mode) : encodeInstr mode ≠ .decode := by
  cases mode <;> decide

/-- Only an ENCODE sets the mode and `j` (R41, R241). -/
theorem exec_keeps_mode {i : Instr} {s t : State} (h : exec i s = .next t) (hi : i = .dispatch ∨ i = .decode) :
    t.mode = s.mode ∧ t.j = s.j := by
  rcases exec_cases h with rfl | ⟨_, rfl⟩ | ⟨mode, rfl, _⟩ | ⟨_, rfl⟩ | ⟨_, rfl⟩
  · exact ⟨rfl, rfl⟩
  · exact ⟨rfl, rfl⟩
  · exact (hi.elim (encodeInstr_ne_dispatch mode) (encodeInstr_ne_decode mode)).elim
  · exact ⟨rfl, rfl⟩
  · exact ⟨rfl, rfl⟩

/-- Only a DISPATCH sets the walk's cursor, count and queue (R42, R190). -/
theorem exec_keeps_walk {i : Instr} {s t : State} (h : exec i s = .next t) (hi : i ≠ .dispatch) :
    t.bi = s.bi ∧ t.slot = s.slot ∧ t.cnt = s.cnt ∧ t.q = s.q := by
  rcases exec_cases h with rfl | ⟨_, rfl⟩ | ⟨_, _, rfl⟩ | ⟨rfl, _⟩ | ⟨_, rfl⟩
  · exact ⟨rfl, rfl, rfl, rfl⟩
  · exact ⟨rfl, rfl, rfl, rfl⟩
  · exact ⟨rfl, rfl, rfl, rfl⟩
  · exact absurd rfl hi
  · exact ⟨rfl, rfl, rfl, rfl⟩

/-- Settles O14: `exec_fields` for what no issue reaches, and the three lemmas on what one reaches in some cases only. -/
theorem issueFrame : Obligations.IssueFrame := by
  intro i s t h
  have hresult := completes_of_exec_result_ne h
  have hmode := exec_keeps_mode h
  have hwalk := exec_keeps_walk h
  rw [exec_fields h]
  exact ⟨rfl, rfl, rfl, rfl, rfl, rfl, fun _ => rfl, fun _ => rfl, rfl, rfl, rfl, rfl, rfl, rfl, rfl, rfl, rfl, rfl, rfl,
    rfl, rfl, hresult, hmode, hwalk⟩

/-! ### Completion -/

/-- `finish` with ERR by the signed comparison of R245. -/
theorem finish_eq_slt (v : Word) (s : State) :
    finish v s = { s with result := v, err := v.slt 0#32, done := true, eng := .idle } := by
  rw [finish, BitVec.slt_zero_eq_msb]

/-- D_FIN and X_DECODE complete with RESULT 0 (R205, R232). -/
theorem coreStep_eq_finish {s : State} (h : s.eng = .dFin ∨ s.eng = .xDecode) : coreStep s = .next (finish 0#32 s) := by
  rcases h with h | h <;> simp only [coreStep, h]

/-- Settles O15: the sign bit is the comparison with 0, and 0 is not negative. -/
theorem finishCompletesTheCommand : Obligations.FinishCompletesTheCommand :=
  ⟨fun v s => ⟨finish_eq_slt v s, finish_busy v s⟩, fun _ h => coreStep_eq_finish h⟩

end Sys2Proof.Machine
end

section
/-! SUPPORT. The largest size of an accepted code with the default ROM, and the capacity that
avoids truncation (R276). -/

namespace Sys2Proof.Machine

/-! ### The largest code -/

/-- A record is at most two code bytes and a separator (R146). -/
theorem codeSize_aligned_le_three (c : Config) (cc : Code) : codeSize c .aligned cc ≤ 3 := by
  rw [codeSize, length_record]
  split_ifs <;> omega

/-- A code that leaves a group free for its separator, or takes none, has a run of at most eight groups (R153). -/
theorem codeSize_compact_le_eight {c : Config} (hlow : c.compactSepTest = .low) {cc : Code}
    (h : ngroups cc ≤ 7 ∨ sepAligned cc = false) : codeSize c .compact cc ≤ 8 := by
  have h8 := ngroups_le_eight cc
  rw [codeSize, length_run hlow]
  rcases h with h7 | hsep
  · split_ifs <;> omega
  · simpa [hsep] using h8

/-- Every entry of the default ROM leaves a group free (R104, R105). -/
theorem defaultRom_ngroups_le_seven :
    (defaultLetterRom ++ defaultDigitRom).all (fun cc => decide (ngroups cc ≤ 7)) = true := by
  decide

theorem ngroups_le_seven_of_mem_defaultRom {cc : Code} (h : cc ∈ defaultLetterRom ++ defaultDigitRom) :
    ngroups cc ≤ 7 :=
  of_decide_eq_true (List.all_eq_true.mp defaultRom_ngroups_le_seven cc h)

theorem sepAligned_endChars : ∀ m, m < 8 → sepAligned (BitVec.ofNat 16 (4 ^ (m + 1) - 1)) = false := by
  decide

/-- END_WORD_CODE is made of END_CHARs alone, so it takes no separator under the low test (R9, R152). -/
theorem sepAligned_endWordCode {c : Config} (hc : c.wellFormed = true) : sepAligned c.endWordCode = false := by
  simp only [Config.wellFormed, Config.endWordOk, Bool.and_eq_true, List.any_eq_true, List.mem_range,
    beq_iff_eq] at hc
  obtain ⟨⟨⟨_, m, hm, heq⟩, _⟩, _⟩ := hc
  rw [← BitVec.setWidth_eq c.endWordCode, ← BitVec.ofNat_toNat, heq]
  exact sepAligned_endChars m hm

/-- With the default ROM an accepted code is a ROM entry of at most seven groups, or END_CHARs alone (R104, R105,
R145). -/
theorem ngroups_le_seven_or_no_separator {c : Config} (hc : c.wellFormed = true)
    (hletter : c.letterRom = defaultLetterRom) (hdigit : c.digitRom = defaultDigitRom) {v : Byte} {cc : Code}
    (h : codeOf c v = some cc) : ngroups cc ≤ 7 ∨ sepAligned cc = false := by
  rcases codeOf_cases hc h with hmem | hmem | rfl | rfl
  · exact .inl (ngroups_le_seven_of_mem_defaultRom (List.mem_append_left _ (hletter ▸ hmem)))
  · exact .inl (ngroups_le_seven_of_mem_defaultRom (List.mem_append_right _ (hdigit ▸ hmem)))
  · exact .inr (sepAligned_endWordCode hc)
  · exact .inr (sepAligned_endChars 7 (by decide))

/-! ### The capacity -/

/-- There are at most as many accepted codes as bytes that are not IGNORED (R133). -/
theorem length_acceptedCodes_le (c : Config) (text : List Byte) :
    (acceptedCodes c text).length ≤ (text.filter fun v => classify v != .ignored).length := by
  rw [← acceptedCodes_filter]
  exact List.length_filterMap_le _ _

theorem Mode.units_mul (mode : Mode) (a b : Nat) : mode.units (a * b) = a * mode.units b := by
  cases mode with
  | aligned => rfl
  | compact => exact Nat.mul_left_comm 4 a b

theorem Mode.units_le_units (mode : Mode) {a b : Nat} (h : a ≤ b) : mode.units a ≤ mode.units b := by
  cases mode with
  | aligned => exact h
  | compact => exact Nat.mul_le_mul_left 4 h

/-- Where no accepted code takes more than `width` bytes, `width` bytes for each byte that is not IGNORED and the margin
are capacity enough (R147, R155, R276). -/
theorem untruncated_of_codes_within {c : Config} {mode : Mode} {cap width : Nat} {text : List Byte}
    (hwidth : ∀ cc ∈ acceptedCodes c text, codeSize c mode cc ≤ mode.units width)
    (hcap : width * (text.filter fun v => classify v != .ignored).length + 2 ≤ cap) :
    truncated c mode cap text = false := by
  rw [truncated_eq_false_iff_fits]
  have hcount := length_acceptedCodes_le c text
  calc contentSize c mode (acceptedCodes c text)
      ≤ (acceptedCodes c text).length * mode.units width := by
        simpa [contentSize] using
          List.sum_le_card_nsmul ((acceptedCodes c text).map (codeSize c mode)) _ (by simpa using hwidth)
    _ = mode.units ((acceptedCodes c text).length * width) := (mode.units_mul _ _).symm
    _ ≤ mode.units (cap - threshold) := by
        refine mode.units_le_units (Nat.le_sub_of_add_le (le_trans (Nat.add_le_add_right ?_ 2) hcap))
        rw [Nat.mul_comm]
        exact Nat.mul_le_mul_left width hcount

/-- An ENCODE of a ready block completes, with TRUNC clear if the main loop is untruncated (R150, R157). -/
theorem encode_completes_untruncated {s : State} {text : List Byte} {mode : Mode} (h : ReadyToEncode s text)
    (htrunc : truncated s.cfg mode s.capacity.toNat text = false) :
    ∃ t u, exec (encodeInstr mode) s = .next t ∧ coreRun (encodeSteps s) t = .next u ∧ u.busy = false ∧
      u.trunc = false := by
  obtain ⟨u, hrun, hout⟩ := encode_completes h mode
  exact ⟨_, u, exec_encode_of_ready h mode, hrun, hout.idle, hout.trunc.trans htrunc⟩

/-- Settles O34: a code takes at most 3 bytes as a record, and at most 8 groups, 2 bytes, as a run of the
default ROM. -/
theorem sizedCapacityAvoidsTruncation : Obligations.SizedCapacityAvoidsTruncation := by
  rintro s text h hletter hdigit _ rfl
  refine ⟨fun hcap => encode_completes_untruncated (mode := .aligned) h ?_,
    fun hlow hcap => encode_completes_untruncated (mode := .compact) h ?_⟩
  · exact untruncated_of_codes_within (fun cc _ => codeSize_aligned_le_three s.cfg cc) hcap
  · refine untruncated_of_codes_within (fun cc hmem => ?_) hcap
    obtain ⟨v, _, hcode⟩ := List.mem_filterMap.mp hmem
    exact codeSize_compact_le_eight hlow (ngroups_le_seven_or_no_separator h.config hletter hdigit hcode)

end Sys2Proof.Machine
end

section
/-! SUPPORT. The values of power-on and of a reset in any state (R46, R270, R271). -/

namespace Sys2Proof.Machine

/-- An idle block with DONE, ERR and TRUNC clear shows STATUS 0 (R28, R46). -/
theorem statusWord_eq_zero {s : State} (hidle : s.eng = .idle) (hdone : s.done = false) (herr : s.err = false)
    (htrunc : s.trunc = false) : statusWord s = 0#32 := by
  simp [statusWord, State.busy, hidle, hdone, herr, htrunc]

/-- A reset forgets the bytes of BUF below the latched capacity of an abandoned ENCODE, and no others (R37, R270). -/
theorem read_buf_resetBlock (s : State) (a : Nat) :
    (resetBlock s).buf.read a = if s.encoding = true ∧ a < s.cap.toNat then none else s.buf.read a := by
  cases hs : s.encoding with
  | false => simp [resetBlock, hs]
  | true => simp [resetBlock, hs, Memory.read_forget]

/-- Settles O55: `State.powerOn` gives each item R46's value, whatever the configuration. -/
theorem powerOnState : Obligations.PowerOnState :=
  ⟨rfl, fun _ => ⟨statusWord_eq_zero rfl rfl rfl rfl, rfl, rfl, rfl, rfl, rfl, rfl, rfl, rfl, rfl, rfl, rfl, rfl, rfl,
    rfl, rfl, rfl, rfl, rfl, rfl, rfl, rfl, rfl, rfl, rfl, rfl, rfl, rfl, Memory.read_nil, Memory.read_nil⟩⟩

/-- Settles O56: a reset is a power-on but for TEXT, BUF and the model's own items; BUF is read by whether an ENCODE
runs. -/
theorem resetInAnyState : Obligations.ResetInAnyState := fun s =>
  ⟨resetBlock s, rfl, statusWord_eq_zero rfl rfl rfl rfl, rfl, rfl, rfl, rfl, rfl, rfl, rfl, rfl, rfl, rfl, rfl, rfl,
    rfl, rfl, rfl, rfl, rfl, rfl, rfl, rfl, rfl, rfl, rfl, rfl, rfl, rfl, rfl, rfl, fun _ => rfl,
    fun hs a => by simp [read_buf_resetBlock, hs], fun hs a => by simp [read_buf_resetBlock, hs]⟩

end Sys2Proof.Machine
end
